-- ==== Sys2Proof/Word.lean ====
section
/-! DEFINITION. The bit vectors of the rasterizer block: the byte every coordinate, operand and framebuffer
cell is made of (R11, R13), and the 16-bit word of `RES` and `CP` (R28, R30). -/

namespace Sys2Proof

/-- A `u8` of R13: a coordinate, a size, a character code, a framebuffer byte. -/
abbrev Byte := BitVec 8

/-- A `u16` of R13: the result register and the command pointer. -/
abbrev Half := BitVec 16

/-- The `int` a `u8` stands for (R13): pseudocode variables are exact integers. -/
def Byte.int (b : Byte) : Int := (b.toNat : Int)

end Sys2Proof
end

