-- ==== Sys2Proof/Syntax.lean ====
section
/-! DEFINITION. The commands (R68): one constructor per row of the opcode table, with the operands of R67 as
bytes. No operand names a register (R22). -/

namespace Sys2Proof

/-- A decoded command. Operand names are those of R67. -/
inductive Instr where
  /-- R127 -/
  | moveto (x y : Byte)
  /-- R128 -/
  | setmode (m : Byte)
  /-- R129 -/
  | setfont (en : Byte)
  /-- R130 -/
  | clear
  /-- R81 -/
  | markdirty (left top width height : Byte)
  /-- R82 -/
  | invalidate
  /-- R83 -/
  | validate
  /-- R84 -/
  | flush
  /-- R89 -/
  | pixel (x y : Byte)
  /-- R90 -/
  | lineto (x y : Byte)
  /-- R99 -/
  | framerect (x y w h : Byte)
  /-- R97 -/
  | paintrect (x y w h : Byte)
  /-- R105 -/
  | frameoval (x y w h : Byte)
  /-- R106 -/
  | paintoval (x y w h : Byte)
  /-- R114 -/
  | corner (cx cy r m : Byte)
  /-- R117 -/
  | framerrect (x y w h corner : Byte)
  /-- R118 -/
  | paintrrect (x y w h corner : Byte)
  /-- R122 -/
  | widthc (code : Byte)
  /-- R123: the count byte `n` of R66 is the length of `s`. -/
  | widths (s : List Byte)
  /-- R124 -/
  | drawchar (code : Byte)
  /-- R125: the count byte `n` of R66 is the length of `s`. -/
  | drawstr (s : List Byte)
  deriving DecidableEq, Repr

/-- The length of a command in bytes (R65, R66): 1, 2, 3, 5, 6 for the formats Z, B, P, R, Q and `2 + n` for S. -/
def Instr.length : Instr → Nat
  | .moveto _ _ => 3
  | .setmode _ => 2
  | .setfont _ => 2
  | .clear => 1
  | .markdirty _ _ _ _ => 5
  | .invalidate => 1
  | .validate => 1
  | .flush => 1
  | .pixel _ _ => 3
  | .lineto _ _ => 3
  | .framerect _ _ _ _ => 5
  | .paintrect _ _ _ _ => 5
  | .frameoval _ _ _ _ => 5
  | .paintoval _ _ _ _ => 5
  | .corner _ _ _ _ => 5
  | .framerrect _ _ _ _ _ => 6
  | .paintrrect _ _ _ _ _ => 6
  | .widthc _ => 2
  | .widths s => 2 + s.length
  | .drawchar _ => 2
  | .drawstr s => 2 + s.length

end Sys2Proof
end

