-- ==== Sys2Proof/WellFormed.lean ====
section
/-! DEFINITION. Which command terms are commands of the block: those that have an encoding (a string's count is one
byte, R66, R120) and, among them, those whose operands are not reserved (R70). A reserved operand still
decodes: executing it raises `IllegalOperand` (R70, R136). -/

namespace Sys2Proof

/-- The command has an encoding: a string holds at most 255 codes (R65, R66, R120). -/
def Instr.encodable : Instr → Bool
  | .widths s => s.length ≤ 255
  | .drawstr s => s.length ≤ 255
  | .moveto _ _ | .setmode _ | .setfont _ | .clear | .markdirty _ _ _ _ | .invalidate | .validate | .flush
  | .pixel _ _ | .lineto _ _ | .framerect _ _ _ _ | .paintrect _ _ _ _ | .frameoval _ _ _ _ | .paintoval _ _ _ _
  | .corner _ _ _ _ | .framerrect _ _ _ _ _ | .paintrrect _ _ _ _ _ | .widthc _ | .drawchar _ => true

/-- No operand holds a reserved value (R70): SETMODE 0..2, SETFONT 0..1, CORNER mask bits 7:5 zero. -/
def Instr.legalOperands : Instr → Bool
  | .setmode m => m.toNat ≤ 2
  | .setfont en => en.toNat ≤ 1
  | .corner _ _ _ m => m.toNat < 32
  | .moveto _ _ | .clear | .markdirty _ _ _ _ | .invalidate | .validate | .flush
  | .pixel _ _ | .lineto _ _ | .framerect _ _ _ _ | .paintrect _ _ _ _ | .frameoval _ _ _ _ | .paintoval _ _ _ _
  | .framerrect _ _ _ _ _ | .paintrrect _ _ _ _ _ | .widthc _ | .widths _ | .drawchar _ | .drawstr _ => true

/-- A well-formed command: it has an encoding and no reserved operand value (R150 (a) and (b)). -/
def Instr.wellFormed (i : Instr) : Bool := i.encodable && i.legalOperands

end Sys2Proof
end

