-- ==== Sys2Proof/Decode.lean ====
section
/-! DEFINITION. The opcode map (R68), the decoder (R65 to R72), total on any bytes and rejecting by name, and the
encoder written from the same tables. -/

namespace Sys2Proof

/-- The 21 assigned opcodes (R68). -/
inductive Opcode where
  | moveto | setmode | setfont | clear
  | markdirty | invalidate | validate | flush
  | pixel | lineto | framerect | paintrect
  | frameoval | paintoval | corner | framerrect | paintrrect
  | widthc | widths | drawchar | drawstr
  deriving DecidableEq, Repr

/-- The byte formats of R66. -/
inductive Format where
  | Z | B | P | R | Q | S
  deriving DecidableEq, Repr

/-- Why bytes are no command. Both raise `IllegalCommand` (R69). -/
inductive DecodeError where
  /-- The first byte is none of the 21 opcodes (R69). -/
  | illegalOpcode
  /-- The command's bytes run past the end of the stream, the count byte of format S included (R69, R72). -/
  | truncated
  deriving DecidableEq, Repr

/-- One row of the opcode map: opcode, its byte, its format (R68). -/
structure OpcodeRow where
  op : Opcode
  code : Byte
  format : Format
  deriving DecidableEq, Repr

/-- The opcode map of R68, in the order of the spec's table. -/
def opcodeMap : List OpcodeRow :=
  [⟨.moveto, 0x10, .P⟩, ⟨.setmode, 0x11, .B⟩, ⟨.setfont, 0x12, .B⟩, ⟨.clear, 0x13, .Z⟩,
   ⟨.markdirty, 0x20, .R⟩, ⟨.invalidate, 0x21, .Z⟩, ⟨.validate, 0x22, .Z⟩, ⟨.flush, 0x23, .Z⟩] ++
  [⟨.pixel, 0x30, .P⟩, ⟨.lineto, 0x31, .P⟩, ⟨.framerect, 0x32, .R⟩, ⟨.paintrect, 0x33, .R⟩] ++
  [⟨.frameoval, 0x40, .R⟩, ⟨.paintoval, 0x41, .R⟩, ⟨.corner, 0x42, .R⟩, ⟨.framerrect, 0x43, .Q⟩,
   ⟨.paintrrect, 0x44, .Q⟩] ++
  [⟨.widthc, 0x50, .B⟩, ⟨.widths, 0x51, .S⟩, ⟨.drawchar, 0x52, .B⟩, ⟨.drawstr, 0x53, .S⟩]

/-- The number of operand bytes of a format without a count (R66). -/
def formatOperands : Format → Nat
  | .Z => 0
  | .B => 1
  | .P => 2
  | .R => 4
  | .Q => 5
  | .S => 0

/-- The row whose opcode byte is `b`: a decoder matches byte 0 with mask 0xFF (R68). -/
def opcodeRow? (b : Byte) : Option OpcodeRow := opcodeMap.find? fun r => r.code == b

/-- The command an opcode makes of the bytes after it (R66, R67), or none where they do not suffice (R69). Bytes
after the command's own are ignored. -/
def assembleOperands (op : Opcode) (rest : List Byte) : Option Instr :=
  match op, rest with
  | .clear, _ => some .clear
  | .invalidate, _ => some .invalidate
  | .validate, _ => some .validate
  | .flush, _ => some .flush
  | .setmode, m :: _ => some (.setmode m)
  | .setfont, en :: _ => some (.setfont en)
  | .widthc, c :: _ => some (.widthc c)
  | .drawchar, c :: _ => some (.drawchar c)
  | .moveto, x :: y :: _ => some (.moveto x y)
  | .pixel, x :: y :: _ => some (.pixel x y)
  | .lineto, x :: y :: _ => some (.lineto x y)
  | .markdirty, l :: t :: w :: h :: _ => some (.markdirty l t w h)
  | .framerect, x :: y :: w :: h :: _ => some (.framerect x y w h)
  | .paintrect, x :: y :: w :: h :: _ => some (.paintrect x y w h)
  | .frameoval, x :: y :: w :: h :: _ => some (.frameoval x y w h)
  | .paintoval, x :: y :: w :: h :: _ => some (.paintoval x y w h)
  | .corner, cx :: cy :: r :: m :: _ => some (.corner cx cy r m)
  | .framerrect, x :: y :: w :: h :: c :: _ => some (.framerrect x y w h c)
  | .paintrrect, x :: y :: w :: h :: c :: _ => some (.paintrrect x y w h c)
  | .widths, n :: cs => if n.toNat ≤ cs.length then some (.widths (cs.take n.toNat)) else none
  | .drawstr, n :: cs => if n.toNat ≤ cs.length then some (.drawstr (cs.take n.toNat)) else none
  | _, _ => none

/-- Decode the command at the front of `bytes` (R72): opcode legality first, then whether its bytes are there
(R136). The bytes it takes are `Instr.length` of the answer. -/
def decode (bytes : List Byte) : Except DecodeError Instr :=
  match bytes with
  | [] => .error .truncated
  | b :: rest =>
    match opcodeRow? b with
    | none => .error .illegalOpcode
    | some row =>
      match assembleOperands row.op rest with
      | none => .error .truncated
      | some i => .ok i

/-- The bytes of a command (R66, R67, R68), the opcode first. Format S emits its count itself (R74). -/
def encode : Instr → List Byte
  | .moveto x y => [0x10, x, y]
  | .setmode m => [0x11, m]
  | .setfont en => [0x12, en]
  | .clear => [0x13]
  | .markdirty l t w h => [0x20, l, t, w, h]
  | .invalidate => [0x21]
  | .validate => [0x22]
  | .flush => [0x23]
  | .pixel x y => [0x30, x, y]
  | .lineto x y => [0x31, x, y]
  | .framerect x y w h => [0x32, x, y, w, h]
  | .paintrect x y w h => [0x33, x, y, w, h]
  | .frameoval x y w h => [0x40, x, y, w, h]
  | .paintoval x y w h => [0x41, x, y, w, h]
  | .corner cx cy r m => [0x42, cx, cy, r, m]
  | .framerrect x y w h c => [0x43, x, y, w, h, c]
  | .paintrrect x y w h c => [0x44, x, y, w, h, c]
  | .widthc c => [0x50, c]
  | .widths s => 0x51 :: BitVec.ofNat 8 s.length :: s
  | .drawchar c => [0x52, c]
  | .drawstr s => 0x53 :: BitVec.ofNat 8 s.length :: s

/-- The longest command has 257 bytes (R65). -/
def maxCommandBytes : Nat := 257

/-- The bytes of a command whose bits are `w`, numbered as the opcode table numbers them: byte `k` of the command is
bits `8k+7 .. 8k`. Every bit at or above `nbits` is 0; the list runs to the longest command. -/
def tableBytes (nbits w : Nat) : List Byte :=
  (List.range maxCommandBytes).map fun k => BitVec.ofNat 8 ((w % 2 ^ nbits) >>> (8 * k))

/-- What the decoder reads from a table word (the host's question). -/
def decodeTableWord (nbits w : Nat) : Option Instr :=
  match decode (tableBytes nbits w) with
  | .ok i => some i
  | .error _ => none

/-- The bytes of one table word and no more: the decoded command's own bytes, or the word's bytes where they are no
command. -/
def tableCommandBytes (nbits w : Nat) : List Byte :=
  match decode (tableBytes nbits w) with
  | .ok i => (tableBytes nbits w).take i.length
  | .error _ => (tableBytes nbits w).take ((nbits + 7) / 8)

end Sys2Proof
end

