-- ==== Sys2Proof/Config.lean ====
section
/-! DEFINITION. What an implementation fixes (the admitted display heights, the three draw modes) and the free
values: constants without a body that stand for everything the spec leaves unspecified (R134, R146, D35, D36). -/

namespace Sys2Proof

/-- The admitted values of `H` (R8, decision D6): exactly the heights for which the page mask of R38 is the
identity on the display's rows. Every other height is not expressible (U12). -/
inductive Height where
  | h8 | h16 | h32 | h64 | h128
  deriving DecidableEq, Repr

/-- `H` in pixels (R8). -/
def Height.rows : Height → Nat
  | .h8 => 8
  | .h16 => 16
  | .h32 => 32
  | .h64 => 64
  | .h128 => 128

/-- `PAGES = H / 8` (R8, R37). -/
def Height.pages (h : Height) : Nat := h.rows / 8

/-- The active draw mode of the backend, register `MODE` (R26): SET, CLEAR, INVERT. The code 3 is never held (R36). -/
inductive DrawMode where
  | set | clear | invert
  deriving DecidableEq, Repr, Inhabited

namespace Config

/-- Free value: an 8-bit register after a `SinkRange` or `FontRange` fault (R134). The argument is the draw. -/
opaque freeByte : Nat → Byte

/-- Free value: `RES` after a `SinkRange` or `FontRange` fault (R134). -/
opaque freeHalf : Nat → Half

/-- Free value: `MODE` after a `SinkRange` or `FontRange` fault (R134, log entry 4). -/
opaque freeMode : Nat → DrawMode

/-- Free value: `FONTEN` after a `SinkRange` or `FontRange` fault (R134, log entry 4). -/
opaque freeFlag : Nat → Bool

/-- Free value: the byte of an unspecified framebuffer (R146, R134), by draw and address. -/
opaque freeCell : Nat → Nat → Byte

/-- Free value: the host's answer to a transmitting FLUSH (R85, D35) where no answer was handed over. -/
opaque freeAnswer : Nat → Bool

end Config
end Sys2Proof
end

