-- ==== Sys2Proof/Machine/State.lean ====
section
/-! DEFINITION. The state of the block as plain data: every register of R23 to R30, the framebuffer (R37), the
parameters of the run (R21), the reasons a step can stop, and the state after reset (R145). -/

namespace Sys2Proof.Machine

/-- What a framebuffer address that is not listed reads as: zero after CLEAR (R130), or the unspecified content of
R146 and R134, named by the draw that made it. -/
inductive Fill where
  | zero
  | free (draw : Nat)
  deriving DecidableEq, Repr

/-- The framebuffer `FB` (R37): the bytes that differ from what an unlisted address reads as, addresses strictly
rising. Its size is `W * PAGES`, `State.fbSize`. -/
structure Memory where
  fill : Fill
  cells : List Host.Cell
  deriving DecidableEq, Repr

/-- A read-only byte array of the run, `FM`, `BM` or `CS` (R9, R10, R34): its size and its bytes that are not 0,
addresses strictly rising. An address below `size` that is not listed holds 0; one at or above `size` does not exist. -/
structure Rom where
  size : Nat
  cells : List Host.Cell
  deriving DecidableEq, Repr

/-- What one `Transmit` event showed the host (the dirty rectangle and the whole of `FB`) and what the host answered
(R85). -/
structure Transmission where
  dx : Byte
  dy : Byte
  dw : Byte
  dh : Byte
  fb : Memory
  ok : Bool
  deriving DecidableEq, Repr

/-- The four faults of the block (R132). There is no other synchronous exception. -/
inductive FaultCode where
  | illegalCommand | illegalOperand | sinkRange | fontRange
  deriving DecidableEq, Repr

/-- Why the machine stops with a fault outcome. The four faults of R132 are NOT here: taking one is a next state
(`State.takeFault`), as R134 describes it. -/
inductive Fault where
  /-- `step` in a state with `FAULT = 1`: the engine has no further step (R134, R135). Raised by `step` only. Safe. -/
  | engineFaulted
  deriving DecidableEq, Repr

/-- Why `step` gives no next state although the block has not faulted. No instruction's meaning raises any of them. -/
inductive Refusal where
  /-- An arm of `exec` without a meaning. No arm is left so. Safe. -/
  | notModelled (mnemonic : String)
  /-- `step` in a final state, `FAULT = 0` and `CP = CS_SIZE`: the run is over (R73). Safe. -/
  | runOver
  /-- `step` with `CP > CS_SIZE`: R72 defines no step there and no run reaches it (R36 (d)). Safe. -/
  | commandPointerBeyondStream
  /-- `step` with parameters R8 to R10 do not admit: `W = 0`, or `FM`, `BM`, `CS` too long (U12, U13). Safe. -/
  | parametersNotAdmitted
  deriving DecidableEq, Repr

/-- The state. Register names are those of `10_state.md` section 3 in lower case. -/
structure State where
  /-- `WIDTH`, the parameter `W` (R23, R8). -/
  width : Byte
  /-- `HEIGHT`, the parameter `H` (R23, R8); `NPAGES` is computed from it. -/
  height : Height
  /-- `CURX` (R24). -/
  curx : Byte
  /-- `CURY` (R24). -/
  cury : Byte
  /-- `DX` (R25). -/
  dx : Byte
  /-- `DY` (R25). -/
  dy : Byte
  /-- `DW` (R25). -/
  dw : Byte
  /-- `DH` (R25). -/
  dh : Byte
  /-- `MODE` (R26). -/
  mode : DrawMode
  /-- `FONTEN` (R27). -/
  fonten : Bool
  /-- `RES` (R28). -/
  res : Half
  /-- `FAULT` (R29). -/
  fault : Bool
  /-- `FCODE` (R29). -/
  fcode : BitVec 3
  /-- `CP` (R30). -/
  cp : Half
  /-- `FB` (R37). -/
  fb : Memory
  /-- `FM`, a parameter of the run (R9, R50). -/
  fm : Rom
  /-- `BM`, a parameter of the run (R9, R53). -/
  bm : Rom
  /-- `CS`, a parameter of the run (R10). -/
  cs : Rom
  /-- The host's answers to `Transmit` still to come (R85, D35), the next one first. -/
  answers : List Bool
  /-- The MODEL's own: what `Transmit` has shown the host in this run, oldest first (R85). -/
  transmissions : List Transmission
  /-- The MODEL's own: how many free values have been drawn. -/
  draws : Nat
  deriving DecidableEq, Repr

/-- The parameters of a run (R21, R145, R149): the size, fixed when the block is built (R8), and what the host hands over
at reset. -/
structure RunParams where
  width : Byte
  height : Height
  fm : Rom
  bm : Rom
  cs : Rom
  answers : List Bool
  deriving DecidableEq, Repr

/-- The state after the reset that starts a block of the size `p` gives on its first run (R145): the framebuffer
is unspecified (R146), the free value of draw `draw`. -/
def State.afterReset (p : RunParams) (draw : Nat) : State where
  width := p.width
  height := p.height
  curx := 0
  cury := 0
  dx := 0
  dy := 0
  dw := 0
  dh := 0
  mode := .set
  fonten := false
  res := 0
  fault := false
  fcode := 0
  cp := 0
  fb := ⟨.free draw, []⟩
  fm := p.fm
  bm := p.bm
  cs := p.cs
  answers := p.answers
  transmissions := []
  draws := draw + 1

/-- The parameters of `State.reset`: the document's own example size 128×64 (R8), no font, an empty command stream
and no answers handed over. DESIGN CHOICE, log entry 1; unsafe only for a statement about `State.reset` itself. -/
def RunParams.default : RunParams where
  width := 128
  height := .h64
  fm := ⟨0, []⟩
  bm := ⟨0, []⟩
  cs := ⟨0, []⟩
  answers := []

/-- The machine right after reset (R145). -/
def State.reset : State := State.afterReset RunParams.default 0

/-- The host asserts reset again, with the arrays and the answers of the next run (R145, R147, R149): nothing is kept but
the block's own size, which is fixed when it is built and which reset does not change (R8, R23). `FB` is unspecified
anew. -/
def State.reassertReset (s : State) (fm bm cs : Rom) (answers : List Bool) : State :=
  State.afterReset ⟨s.width, s.height, fm, bm, cs, answers⟩ s.draws

end Sys2Proof.Machine
end

