-- ==== Sys2Proof/Machine/Operands.lean ====
section
/-! DEFINITION. Operand forms: how an operand byte is read (R67), the reduction of an `int` to 8 bits (R13), the
signed reading of the glyph offsets (R13), the mask bits of CORNER (R110), the reserved values (R70) and the radius
clamp (R115). -/

namespace Sys2Proof.Machine

/-- `v mod 256` of R14: the 8-bit value congruent to `v`. -/
def wrap8 (v : Int) : Byte := BitVec.ofInt 8 v

/-- `sext_8` of R13. -/
def sext8 (b : Byte) : Int := if b.toNat < 128 then (b.toNat : Int) else (b.toNat : Int) - 256

/-- Bit `i` of a mask operand (R12). -/
def maskBit (m : Byte) (i : Nat) : Bool := m.getLsbD i

/-- The fill bit of a CORNER mask: bit 4 (R110). -/
def fillBit (m : Byte) : Bool := maskBit m 4

/-- SETMODE's operand (R70, R128): 0 SET, 1 CLEAR, 2 INVERT, anything else reserved. -/
def modeOperand (m : Byte) : Option DrawMode :=
  if m = 0 then some .set else if m = 1 then some .clear else if m = 2 then some .invert else none

/-- SETFONT's operand (R70, R129): 0 or 1, anything else reserved. -/
def fontOperand (en : Byte) : Option Bool :=
  if en = 0 then some false else if en = 1 then some true else none

/-- CORNER's mask is legal when `m & 0xE0 = 0` (R70, R114). -/
def cornerMaskLegal (m : Byte) : Bool := m &&& 0xE0 == 0

/-- The smaller of two bytes, as unsigned numbers (R14). -/
def minByte (a b : Byte) : Byte := if a.toNat ≤ b.toNat then a else b

/-- The larger of two bytes, as unsigned numbers (R14). -/
def maxByte (a b : Byte) : Byte := if a.toNat ≤ b.toNat then b else a

/-- The clamped radius `c = min(corner, min(w, h) div 2)` (R115). -/
def clampRadius (w h corner : Nat) : Nat := min corner (min w h / 2)

end Sys2Proof.Machine
end

