-- ==== Sys2Proof/Machine/Flags.lean ====
section
/-! DEFINITION. The status bits and their host-visible packing (R29, R32): the block has no condition codes (R31). -/

namespace Sys2Proof.Machine

/-- The code a fault leaves in `FCODE` (R132). -/
def FaultCode.code : FaultCode → BitVec 3
  | .illegalCommand => 1
  | .illegalOperand => 2
  | .sinkRange => 3
  | .fontRange => 4

/-- The fault is precise: nothing but `STATUS` differs from before the command (R134). -/
def FaultCode.precise : FaultCode → Bool
  | .illegalCommand => true
  | .illegalOperand => true
  | .sinkRange => false
  | .fontRange => false

/-- The 2-bit code of `MODE` (R26). -/
def modeCode : DrawMode → BitVec 2
  | .set => 0
  | .clear => 1
  | .invert => 2

/-- The register `CTRL` (R32): `MODE` in bits 1:0, `FONTEN` in bit 2, bits 7:3 zero. -/
def State.ctrl (s : State) : Byte := 0#5 ++ BitVec.ofBool s.fonten ++ modeCode s.mode

/-- The register `STATUS` (R32): `FAULT` in bit 0, `FCODE` in bits 3:1, bits 7:4 zero. -/
def State.status (s : State) : Byte := 0#4 ++ s.fcode ++ BitVec.ofBool s.fault

end Sys2Proof.Machine
end

