-- ==== Sys2Proof/Machine/Ops.lean ====
section
/-! DEFINITION. The shared operations: the byte spaces (R34), the register updates, the pixel sink (R41 to R46), the
dirty tracker (R77), the font reader (R51 to R53), taking a fault (R134), completing a command (R72), the host's
views (R32, R49, R73). -/

namespace Sys2Proof.Machine

/-! ## Byte spaces -/

/-- What an unlisted framebuffer address reads as. -/
def Fill.byteAt : Fill → Nat → Byte
  | .zero, _ => 0
  | .free draw, a => Config.freeCell draw a

/-- The byte listed at `a`, or `dflt`. -/
def cellsRead (dflt : Byte) (a : Nat) : List Host.Cell → Byte
  | [] => dflt
  | c :: rest => if a = c.1 then c.2 else cellsRead dflt a rest

/-- List `b` at `a`, or nothing where `b` is what the unlisted address reads as; addresses stay strictly rising. -/
def cellsWrite (dflt : Byte) (a : Nat) (b : Byte) : List Host.Cell → List Host.Cell
  | [] => if b = dflt then [] else [(a, b)]
  | c :: rest =>
    if a < c.1 then (if b = dflt then c :: rest else (a, b) :: c :: rest)
    else if a = c.1 then (if b = dflt then rest else (a, b) :: rest)
    else c :: cellsWrite dflt a b rest

/-- Addresses strictly rising, no entry equal to what its address reads as unlisted. -/
def cellsWf (dflt : Nat → Byte) : List Host.Cell → Bool
  | [] => true
  | c :: rest => (c.2 != dflt c.1) && rest.all (fun d => decide (c.1 < d.1)) && cellsWf dflt rest

/-- The framebuffer byte at `a` (R49). -/
def Memory.read (m : Memory) (a : Nat) : Byte := cellsRead (m.fill.byteAt a) a m.cells

/-- Store one framebuffer byte. -/
def Memory.write (m : Memory) (a : Nat) (b : Byte) : Memory :=
  { m with cells := cellsWrite (m.fill.byteAt a) a b m.cells }

/-- The canonical form of a framebuffer. -/
def Memory.wf (m : Memory) : Bool := cellsWf m.fill.byteAt m.cells

/-- The byte at `a` of a read-only array, or none at or above its size (R51, R53, R72). -/
def Rom.read (r : Rom) (a : Nat) : Option Byte := if a < r.size then some (cellsRead 0 a r.cells) else none

/-- The canonical form of a read-only array: rising, no listed zero, nothing listed at or above the size. -/
def Rom.wf (r : Rom) : Bool := cellsWf (fun _ => 0) r.cells && r.cells.all fun c => decide (c.1 < r.size)

/-- Cells for `bytes` laid out from address `a` on top of `cells`. -/
def cellsPlace (a : Nat) : List Byte → List Host.Cell → List Host.Cell
  | [], cells => cells
  | b :: bs, cells => cellsPlace (a + 1) bs (cellsWrite 0 a b cells)

/-- The read-only array that holds exactly `bytes`: how the host hands over `FM`, `BM` and `CS` (R149). -/
def Rom.ofBytes (bytes : List Byte) : Rom := ⟨bytes.length, cellsPlace 0 bytes []⟩

/-- `r` with `bytes` laid out from address `a`, made longer where they do not fit. -/
def Rom.place (r : Rom) (a : Nat) (bytes : List Byte) : Rom :=
  ⟨max r.size (a + bytes.length), cellsPlace a bytes r.cells⟩

/-! ## Registers -/

/-- `W` as a number (R8). -/
def State.w (s : State) : Nat := s.width.toNat

/-- `H` as a number (R8). -/
def State.h (s : State) : Nat := s.height.rows

/-- `PAGES` (R8), the register `NPAGES` (R23). -/
def State.pages (s : State) : Nat := s.height.pages

/-- `W * PAGES`, the size of `FB` (R37). -/
def State.fbSize (s : State) : Nat := s.w * s.pages

/-- Write `CURX`, `CURY` (R24). -/
def State.setCursor (s : State) (x y : Byte) : State := { s with curx := x, cury := y }

/-- Write `DX`, `DY`, `DW`, `DH` (R25). -/
def State.setDirty (s : State) (x y w h : Byte) : State := { s with dx := x, dy := y, dw := w, dh := h }

/-- Write `MODE` (R26). -/
def State.setMode (s : State) (m : DrawMode) : State := { s with mode := m }

/-- Write `FONTEN` (R27). -/
def State.setFonten (s : State) (b : Bool) : State := { s with fonten := b }

/-- Write `RES` (R28). -/
def State.setRes (s : State) (v : Half) : State := { s with res := v }

/-- Write `FB` (R34). -/
def State.setFb (s : State) (m : Memory) : State := { s with fb := m }

/-- `CP <- CP + n` (R72, R30). -/
def State.advance (s : State) (n : Nat) : State := { s with cp := s.cp + BitVec.ofNat 16 n }

/-- `FAULT <- 1; FCODE <- k` (R134). -/
def State.setFault (s : State) (k : FaultCode) : State := { s with fault := true, fcode := k.code }

/-! ## Taking a fault, completing a command -/

/-- Every register R134 leaves undefined after a `SinkRange` or `FontRange` fault, and every byte of `FB`, takes a
free value. `WIDTH`, `HEIGHT` and the parameters of the run never change (R21, R23). -/
def State.unspecify (s : State) : State :=
  { s with
    dx := Config.freeByte s.draws
    dy := Config.freeByte (s.draws + 1)
    dw := Config.freeByte (s.draws + 2)
    dh := Config.freeByte (s.draws + 3)
    curx := Config.freeByte (s.draws + 4)
    cury := Config.freeByte (s.draws + 5)
    res := Config.freeHalf s.draws
    mode := Config.freeMode s.draws
    fonten := Config.freeFlag s.draws
    fb := ⟨.free s.draws, []⟩
    draws := s.draws + 6 }

/-- Fault entry (R134), from the state before the faulting command: `FAULT` and `FCODE` are set, `CP` stays at the
command's opcode, control goes nowhere. `IllegalCommand` and `IllegalOperand` are precise; after `SinkRange` and
`FontRange` nothing else is defined. There is no return from a fault (R135, R138). -/
def State.takeFault (s : State) (k : FaultCode) : State :=
  if k.precise then s.setFault k else s.unspecify.setFault k

/-- The end of a command of `len` bytes that started in `s` (R72, R134): its effect and `CP <- CP + len`, or the
fault it raised. -/
def State.finish (s : State) (len : Nat) (r : Except FaultCode State) : Host.Outcome State Fault Refusal :=
  match r with
  | .ok t => .next (t.advance len)
  | .error k => .next (s.takeFault k)

/-! ## The pixel sink -/

/-- One call of the pixel sink (R41), with the `int` arguments the engine passes. -/
inductive SinkCall where
  | pixel (x y : Int)
  | hrun (left right y : Int)
  | vrun (x top bottom : Int)
  deriving DecidableEq, Repr

/-- `page(y) = (y >> 3) & (PAGES - 1)` (R38). -/
def pageOf (pages y : Nat) : Nat := (y >>> 3) &&& (pages - 1)

/-- The byte index of pixel `(x, y)` (R38). -/
def State.fbIndex (s : State) (x y : Nat) : Nat := x + pageOf s.pages y * s.w

/-- `1 << (y & 7)` (R44). -/
def bitOfRow (y : Nat) : Byte := 1#8 <<< (y % 8)

/-- `topPattern = (0xFF << (top & 7)) mod 256` (R46, R15 (c)). -/
def topPattern (top : Nat) : Byte := 0xFF#8 <<< (top % 8)

/-- `bottomPattern = ((0x02 << (bottom & 7)) - 1) mod 256`, in 8 bits with its intended wrap (R46, R15 (c)). -/
def bottomPattern (bottom : Nat) : Byte := (0x02#8 <<< (bottom % 8)) - 1#8

/-- The domain of a sink call (R42), on the arguments reduced `mod 256` (R41). -/
def SinkCall.inDomain (s : State) : SinkCall → Bool
  | .pixel x y => (wrap8 x).toNat < s.w && (wrap8 y).toNat < s.h
  | .hrun l r y => (wrap8 l).toNat ≤ (wrap8 r).toNat && (wrap8 r).toNat < s.w && (wrap8 y).toNat < s.h
  | .vrun x t b => (wrap8 x).toNat < s.w && (wrap8 t).toNat ≤ (wrap8 b).toNat && (wrap8 b).toNat < s.h

/-- The `Apply` calls of `SinkPixel` (R44): byte index and mask. -/
def pixelWrites (s : State) (x y : Nat) : List (Nat × Byte) := [(s.fbIndex x y, bitOfRow y)]

/-- The `Apply` calls of `SinkHRun` (R45): one per column. -/
def hrunWrites (s : State) (left right y : Nat) : List (Nat × Byte) :=
  (List.range' left (right + 1 - left)).map fun x => (s.fbIndex x y, bitOfRow y)

/-- The `Apply` calls of `SinkVRun` (R46): one per page touched. -/
def vrunWrites (s : State) (x top bottom : Nat) : List (Nat × Byte) :=
  let pt := pageOf s.pages top
  let pb := pageOf s.pages bottom
  if pt = pb then [(x + pt * s.w, topPattern top &&& bottomPattern bottom)]
  else
    (x + pt * s.w, topPattern top) ::
      ((List.range' (pt + 1) (pb - (pt + 1))).map (fun p => (x + p * s.w, 0xFF#8)) ++
        [(x + pb * s.w, bottomPattern bottom)])

/-- The `Apply` calls a sink call makes, in order (R44, R45, R46), on the arguments reduced `mod 256`. -/
def SinkCall.writes (s : State) : SinkCall → List (Nat × Byte)
  | .pixel x y => pixelWrites s (wrap8 x).toNat (wrap8 y).toNat
  | .hrun l r y => hrunWrites s (wrap8 l).toNat (wrap8 r).toNat (wrap8 y).toNat
  | .vrun x t b => vrunWrites s (wrap8 x).toNat (wrap8 t).toNat (wrap8 b).toNat

/-- A framebuffer byte combined with a mask by the draw mode (R43). -/
def blend (mode : DrawMode) (old mask : Byte) : Byte :=
  match mode with
  | .set => old ||| mask
  | .clear => old &&& ~~~mask
  | .invert => old ^^^ mask

/-- `Apply(i, m)` (R43): a read-modify-write of one byte. -/
def applyMask (mode : DrawMode) (fb : Memory) (i : Nat) (m : Byte) : Memory :=
  fb.write i (blend mode (fb.read i) m)

/-- A sequence of `Apply` calls. -/
def applyMasks (mode : DrawMode) : List (Nat × Byte) → Memory → Memory
  | [], fb => fb
  | im :: rest, fb => applyMasks mode rest (applyMask mode fb im.1 im.2)

/-- One sink call (R42 to R46): outside its domain `SinkRange` and nothing written. -/
def SinkCall.run (c : SinkCall) (s : State) : Except FaultCode State :=
  if c.inDomain s then .ok (s.setFb (applyMasks s.mode (c.writes s) s.fb)) else .error .sinkRange

/-- A sequence of sink calls, up to the first that faults (R134, R136). -/
def runSinks : List SinkCall → State → Except FaultCode State
  | [], s => .ok s
  | c :: rest, s =>
    match c.run s with
    | .ok t => runSinks rest t
    | .error k => .error k

/-! ## The dirty tracker -/

/-- The dirty rectangle is empty: `DW = 0` or `DH = 0` (R76, R25). -/
def State.dirtyEmpty (s : State) : Bool := s.dw == 0 || s.dh == 0

/-- `MarkDirty` on 8-bit arguments (R77). -/
def State.markBox (s : State) (left top width height : Byte) : State :=
  if width = 0 ∨ height = 0 then s
  else if s.dw = 0 ∨ s.dh = 0 then s.setDirty left top width height
  else
    let nl := minByte s.dx left
    let nt := minByte s.dy top
    let nr := maxByte (s.dx + s.dw) (left + width)
    let nb := maxByte (s.dy + s.dh) (top + height)
    s.setDirty nl nt (nr - nl) (nb - nt)

/-- `MarkDirty(left, top, width, height)` (R77): the arguments are reduced `mod 256` first. -/
def State.markDirty (s : State) (left top width height : Int) : State :=
  s.markBox (wrap8 left) (wrap8 top) (wrap8 width) (wrap8 height)

/-- Take the host's answer to one `Transmit` (R85, D35): the next one handed over, else a free value. -/
def State.takeAnswer (s : State) : Bool × State :=
  match s.answers with
  | ok :: rest => (ok, { s with answers := rest })
  | [] => (Config.freeAnswer s.draws, { s with draws := s.draws + 1 })

/-- `Transmit((DX, DY, DW, DH), FB)` (R85): the host is shown the rectangle and `FB` and answers one boolean. No
state of the block changes. -/
def State.transmit (s : State) : Bool × State :=
  let a := s.takeAnswer
  (a.1, { a.2 with transmissions := a.2.transmissions ++ [⟨s.dx, s.dy, s.dw, s.dh, s.fb, a.1⟩] })

/-! ## The font reader -/

/-- `FontByte(a)` (R51). -/
def State.fontByte (s : State) (a : Nat) : Except FaultCode Byte :=
  match s.fm.read a with
  | some b => .ok b
  | none => .error .fontRange

/-- `BitmapBit(k)` (R53): bit address 0 is the most significant bit of `BM[0]`. -/
def State.bitmapBit (s : State) (k : Nat) : Except FaultCode Bool :=
  match s.bm.read (k >>> 3) with
  | some b => .ok (b &&& (0x80#8 >>> (k % 8)) != 0)
  | none => .error .fontRange

/-- A glyph record (R50, R52). -/
structure Glyph where
  bitmapOffset : Nat
  width : Nat
  height : Nat
  xAdvance : Byte
  xOffset : Int
  yOffset : Int
  deriving DecidableEq, Repr

/-- The 7-byte glyph entry at `e` (R50): `bitmapOffset` low byte first. -/
def State.glyphEntry (s : State) (e : Nat) : Except FaultCode Glyph := do
  let b0 ← s.fontByte e
  let b1 ← s.fontByte (e + 1)
  let b2 ← s.fontByte (e + 2)
  let b3 ← s.fontByte (e + 3)
  let b4 ← s.fontByte (e + 4)
  let b5 ← s.fontByte (e + 5)
  let b6 ← s.fontByte (e + 6)
  return ⟨b0.toNat + 256 * b1.toNat, b2.toNat, b3.toNat, b4, sext8 b5, sext8 b6⟩

/-- `Glyph(c)` (R52): none without a font or outside `[first, last]`. `FM[2]` and `FM[3]` are read by no command
(R50, D31). -/
def State.glyph (s : State) (code : Byte) : Except FaultCode (Option Glyph) :=
  if s.fonten then do
    let first ← s.fontByte 0
    let last ← s.fontByte 1
    if code.toNat < first.toNat ∨ last.toNat < code.toNat then return none
    else
      let g ← s.glyphEntry (4 + 7 * (code.toNat - first.toNat))
      return some g
  else return none

/-! ## Fetch and the host's views -/

/-- The bytes of `CS` from `CP` on, at most the longest command's (R65, R72). -/
def State.fetchBytes (s : State) : List Byte :=
  (List.range (min maxCommandBytes (s.cs.size - s.cp.toNat))).map fun k =>
    cellsRead 0 (s.cp.toNat + k) s.cs.cells

/-- Parameters R8 to R10 admit (U12, U13); the heights of R8 are the only ones there are. -/
def State.admitted (s : State) : Bool :=
  decide (1 ≤ s.w) && decide (s.fm.size ≤ 65536) && decide (s.bm.size ≤ 65536) && decide (s.cs.size ≤ 65535)

/-- The run is over and the state final (R73). -/
def State.isFinal (s : State) : Bool := !s.fault && decide (s.cp.toNat = s.cs.size)

/-- The host's read-only register port (R32). -/
def State.readPort (s : State) (addr : Byte) : Byte :=
  match addr.toNat with
  | 0 => s.width
  | 1 => BitVec.ofNat 8 s.h
  | 2 => BitVec.ofNat 8 s.pages
  | 3 => s.curx
  | 4 => s.cury
  | 5 => s.dx
  | 6 => s.dy
  | 7 => s.dw
  | 8 => s.dh
  | 9 => s.ctrl
  | 10 => s.status
  | 11 => s.res.extractLsb' 0 8
  | 12 => s.res.extractLsb' 8 8
  | _ => 0

/-- The host reads `FB[i]` between commands (R49); an address outside `FB` does not exist (R34). -/
def State.hostReadFb (s : State) (i : Nat) : Option Byte := if i < s.fbSize then some (s.fb.read i) else none

/-- Pixel `(x, y)` read back (R49): set when true (R40). -/
def State.pixelAt (s : State) (x y : Nat) : Bool := (s.fb.read (s.fbIndex x y)).getLsbD (y % 8)

end Sys2Proof.Machine
end

