-- ==== Sys2Proof/Machine/Control.lean ====
section
/-! DEFINITION. Control commands: MOVETO, SETMODE, SETFONT, CLEAR (R127 to R130). -/

namespace Sys2Proof.Machine

/-- MOVETO (R127): every position is accepted, also one off the display. -/
def execMoveto (x y : Byte) (s : State) : Host.Outcome State Fault Refusal :=
  s.finish 3 (.ok (s.setCursor x y))

/-- SETMODE (R128): `IllegalOperand` for 3..255, before any state changes (R70). -/
def execSetmode (m : Byte) (s : State) : Host.Outcome State Fault Refusal :=
  s.finish 2 (match modeOperand m with
    | some mode => .ok (s.setMode mode)
    | none => .error .illegalOperand)

/-- SETFONT (R129): `IllegalOperand` for 2..255; no font memory is read. -/
def execSetfont (en : Byte) (s : State) : Host.Outcome State Fault Refusal :=
  s.finish 2 (match fontOperand en with
    | some b => .ok (s.setFonten b)
    | none => .error .illegalOperand)

/-- CLEAR (R130): every byte of `FB` is 0 whatever the mode, and the dirty rectangle is the whole display. -/
def execClear (s : State) : Host.Outcome State Fault Refusal :=
  s.finish 1 (.ok ((s.setFb ⟨.zero, []⟩).setDirty 0 0 s.width (BitVec.ofNat 8 s.h)))

end Sys2Proof.Machine
end

