-- ==== Sys2Proof/Machine/LineRect.lean ====
section
/-! DEFINITION. Pixels, lines and rectangles: PIXEL, LINETO, FRAMERECT, PAINTRECT (R89 to R99). -/

namespace Sys2Proof.Machine

/-! ## Lines -/

/-- The walk of R93, at most `fuel` iterations: `dx`, `dy` are the magnitudes, `sx`, `sy` the sign steps, `x1`, `y1`
the target, then the current pixel and the error term. Both comparisons are strict, x first (D11). -/
def lineWalk (dx dy sx sy x1 y1 : Int) : Nat → Int → Int → Int → List SinkCall
  | 0, _, _, _ => []
  | fuel + 1, x0, y0, err =>
    let e2 := 2 * err
    let stepX := decide (e2 > -dy)
    let stepY := decide (e2 < dx)
    .pixel x0 y0 ::
      (if stepX && decide (x0 = x1) then []
       else if stepY && decide (y0 = y1) then []
       else
        lineWalk dx dy sx sy x1 y1 fuel (if stepX then x0 + sx else x0) (if stepY then y0 + sy else y0)
          ((if stepX then err - dy else err) + (if stepY then dx else 0)))

/-- The general path of R93 from `(x0, y0)` to `(x1, y1)`. The walk makes `max(dx, dy) + 1` calls (R94 (a)), fewer
than the fuel `dx + dy + 1`. -/
def lineWalkCalls (x0 y0 x1 y1 : Int) : List SinkCall :=
  let dx := (x1 - x0).natAbs
  let dy := (y1 - y0).natAbs
  lineWalk dx dy (if x0 < x1 then 1 else -1) (if y0 < y1 then 1 else -1) x1 y1 (dx + dy + 1) x0 y0 (dx - dy)

/-- The sink calls of a line (R90): the horizontal path first (R91, D13), then the vertical (R92), then the walk. -/
def lineCalls (x0 y0 x1 y1 : Int) : List SinkCall :=
  if y0 = y1 then [.hrun (min x0 x1) (max x0 x1) y0]
  else if x0 = x1 then [.vrun x0 (min y0 y1) (max y0 y1)]
  else lineWalkCalls x0 y0 x1 y1

/-- The effect of LINETO (R90). -/
def lineTo (x1 y1 : Byte) (s : State) : Except FaultCode State :=
  let x0 := s.curx.int
  let y0 := s.cury.int
  let marked := s.markDirty (min x0 x1.int) (min y0 y1.int) ((x1.int - x0).natAbs + 1) ((y1.int - y0).natAbs + 1)
  match runSinks (lineCalls x0 y0 x1.int y1.int) marked with
  | .ok t => .ok (t.setCursor x1 y1)
  | .error k => .error k

/-! ## Rectangles -/

/-- `PaintBody(x, y, w, h)` (R96): one vertical run per column, left to right. -/
def paintBody (x y : Int) (w h : Nat) : List SinkCall :=
  (List.range w).map fun i => .vrun (x + i) y (y + h - 1)

/-- `FrameBody(x, y, w, h)` (R98). -/
def frameBody (x y : Int) (w h : Nat) : List SinkCall :=
  if w = 1 ∨ h = 1 then paintBody x y w h
  else
    let r := x + w - 1
    let b := y + h - 1
    .vrun x y b :: .vrun r y b ::
      (if w > 2 then [.hrun (x + 1) (r - 1) y, .hrun (x + 1) (r - 1) b] else [])

/-- A shape command (R87, R88): a zero width or height is a no-op; else mark the box and draw. -/
def drawShape (x y w h : Byte) (calls : List SinkCall) (s : State) : Except FaultCode State :=
  if w = 0 ∨ h = 0 then .ok s else runSinks calls (s.markDirty x.int y.int w.int h.int)

/-! ## Commands -/

/-- PIXEL (R89): the box is marked before the sink call. -/
def execPixel (x y : Byte) (s : State) : Host.Outcome State Fault Refusal :=
  s.finish 3 (runSinks [.pixel x.int y.int] (s.markDirty x.int y.int 1 1))

/-- LINETO (R90). -/
def execLineto (x y : Byte) (s : State) : Host.Outcome State Fault Refusal :=
  s.finish 3 (lineTo x y s)

/-- FRAMERECT (R99). -/
def execFramerect (x y w h : Byte) (s : State) : Host.Outcome State Fault Refusal :=
  s.finish 5 (drawShape x y w h (frameBody x.int y.int w.toNat h.toNat) s)

/-- PAINTRECT (R97). -/
def execPaintrect (x y w h : Byte) (s : State) : Host.Outcome State Fault Refusal :=
  s.finish 5 (drawShape x y w h (paintBody x.int y.int w.toNat h.toNat) s)

end Sys2Proof.Machine
end

