-- ==== Sys2Proof/Machine/CornerRoundRect.lean ====
section
/-! DEFINITION. Corner arcs and rounded rectangles: CORNER, FRAMERRECT, PAINTRRECT (R110 to R118). -/

namespace Sys2Proof.Machine

/-- The variables of the corner walk (R111): the negated horizontal offset, the vertical offset, the error term. -/
structure CornerVars where
  x : Int
  y : Int
  err : Int
  deriving DecidableEq, Repr

/-- `EmitCorner` (R112): one call per selected quadrant, in the order bit 0 top-left, 1 top-right, 2 bottom-right,
3 bottom-left; in fill mode only in an iteration that makes an x step. -/
def cornerEmit (cx cy : Int) (m : Byte) (ex ey : Int) (xstep : Bool) : List SinkCall :=
  if fillBit m then
    if xstep then
      (if maskBit m 0 then [.vrun (cx - ex) (cy - ey) (cy - 1)] else []) ++
      (if maskBit m 1 then [.vrun (cx + ex) (cy - ey) (cy - 1)] else []) ++
      (if maskBit m 2 then [.vrun (cx + ex) (cy + 1) (cy + ey)] else []) ++
      (if maskBit m 3 then [.vrun (cx - ex) (cy + 1) (cy + ey)] else [])
    else []
  else
    (if maskBit m 0 then [.pixel (cx - ex) (cy - ey)] else []) ++
    (if maskBit m 1 then [.pixel (cx + ex) (cy - ey)] else []) ++
    (if maskBit m 2 then [.pixel (cx + ex) (cy + ey)] else []) ++
    (if maskBit m 3 then [.pixel (cx - ex) (cy + ey)] else [])

/-- The y step of R111, decided from the error term before any update. -/
def cornerStepY (v : CornerVars) : CornerVars :=
  if v.err ≤ v.y then { v with y := v.y + 1, err := v.err + (2 * (v.y + 1) + 1) } else v

/-- The test of the x step (R111): `v` before the iteration, `u` after its y step. -/
def cornerXstep (v u : CornerVars) : Bool := decide (v.err > v.x) || decide (u.err > u.y)

/-- One iteration's updates (R111). -/
def cornerStep (v : CornerVars) : CornerVars :=
  let u := cornerStepY v
  if cornerXstep v u then { u with x := u.x + 1, err := u.err + (2 * (u.x + 1) + 1) } else u

/-- The walk of R111, at most `fuel` iterations. The points on the axes through the centre are not emitted. -/
def cornerWalk (cx cy : Int) (m : Byte) : Nat → CornerVars → List SinkCall
  | 0, _ => []
  | fuel + 1, v =>
    let u := cornerStep v
    (if -v.x ≥ 1 ∧ v.y ≥ 1 then cornerEmit cx cy m (-v.x) v.y (cornerXstep v (cornerStepY v)) else []) ++
      (if u.x ≥ 0 then [] else cornerWalk cx cy m fuel u)

/-- The sink calls of `Corner(cx, cy, r, m)` (R110, R111). Every iteration makes at least one of at most `2 * r`
steps (R113 (a)), so `2 * r + 1` iterations suffice. -/
def cornerCalls (cx cy : Int) (r : Nat) (m : Byte) : List SinkCall :=
  cornerWalk cx cy m (2 * r + 1) ⟨-(r : Int), 0, 2 - 2 * (r : Int)⟩

/-- The dirty boxes of CORNER (R114, D18): one `r × r` box per selected quadrant, in the order of the bits. -/
def markCorner (cx cy r : Int) (m : Byte) (s : State) : State :=
  let s0 := if maskBit m 0 then s.markDirty (cx - r) (cy - r) r r else s
  let s1 := if maskBit m 1 then s0.markDirty (cx + 1) (cy - r) r r else s0
  let s2 := if maskBit m 2 then s1.markDirty (cx + 1) (cy + 1) r r else s1
  if maskBit m 3 then s2.markDirty (cx - r) (cy + 1) r r else s2

/-- The effect of CORNER (R114): the reserved bits are looked at before anything else. -/
def cornerEffect (cx cy r m : Byte) (s : State) : Except FaultCode State :=
  if cornerMaskLegal m then
    runSinks (cornerCalls cx.int cy.int r.toNat m) (markCorner cx.int cy.int r.int m s)
  else .error .illegalOperand

/-- The sink calls of `RoundRect(x, y, w, h, corner, fill)` (R116) with the clamped radius `c`, for `w >= 1` and
`h >= 1`. -/
def roundRectCalls (fill : Bool) (x y : Int) (w h c : Nat) : List SinkCall :=
  if c = 0 then (if fill then paintBody x y w h else frameBody x y w h)
  else
    let l := x + c
    let r := x + w - 1 - c
    let t := y + c
    let b := y + h - 1 - c
    let f : Byte := if fill then 0x10 else 0
    cornerCalls l t c (f ||| 0x01) ++ cornerCalls r t c (f ||| 0x02) ++
    cornerCalls r b c (f ||| 0x04) ++ cornerCalls l b c (f ||| 0x08) ++
    (if fill then
      (if w - 2 * c ≥ 1 then paintBody l y (w - 2 * c) c else []) ++
      (if h - 2 * c ≥ 1 then paintBody x t w (h - 2 * c) else []) ++
      (if w - 2 * c ≥ 1 then paintBody l (y + h - c) (w - 2 * c) c else [])
    else
      (if w - 2 * c ≥ 1 then [.hrun l r y, .hrun l r (y + h - 1)] else []) ++
      (if h - 2 * c ≥ 1 then [.vrun x t b, .vrun (x + w - 1) t b] else []))

/-- `RoundRect` as a command's effect (R116, R88). -/
def roundRect (fill : Bool) (x y w h corner : Byte) (s : State) : Except FaultCode State :=
  drawShape x y w h
    (roundRectCalls fill x.int y.int w.toNat h.toNat (clampRadius w.toNat h.toNat corner.toNat)) s

/-- CORNER (R114). -/
def execCorner (cx cy r m : Byte) (s : State) : Host.Outcome State Fault Refusal :=
  s.finish 5 (cornerEffect cx cy r m s)

/-- FRAMERRECT (R117). -/
def execFramerrect (x y w h corner : Byte) (s : State) : Host.Outcome State Fault Refusal :=
  s.finish 6 (roundRect false x y w h corner s)

/-- PAINTRRECT (R118). -/
def execPaintrrect (x y w h corner : Byte) (s : State) : Host.Outcome State Fault Refusal :=
  s.finish 6 (roundRect true x y w h corner s)

end Sys2Proof.Machine
end

