-- ==== Sys2Proof/Machine/Dirty.lean ====
section
/-! DEFINITION. Dirty-tracker commands: MARKDIRTY, INVALIDATE, VALIDATE, FLUSH (R81 to R85). -/

namespace Sys2Proof.Machine

/-- MARKDIRTY (R81): every operand value is accepted. -/
def execMarkdirty (left top width height : Byte) (s : State) : Host.Outcome State Fault Refusal :=
  s.finish 5 (.ok (s.markDirty left.int top.int width.int height.int))

/-- INVALIDATE (R82): the rectangle is replaced by the whole display. -/
def execInvalidate (s : State) : Host.Outcome State Fault Refusal :=
  s.finish 1 (.ok (s.setDirty 0 0 s.width (BitVec.ofNat 8 s.h)))

/-- VALIDATE (R83): the rectangle is empty, its origin zeroed too (D9). -/
def execValidate (s : State) : Host.Outcome State Fault Refusal :=
  s.finish 1 (.ok (s.setDirty 0 0 0 0))

/-- The effect of FLUSH (R84): an empty rectangle transmits nothing and succeeds; a failed transmission leaves the
rectangle as it was. -/
def flushEffect (s : State) : State :=
  if s.dirtyEmpty then s.setRes 1
  else
    let a := s.transmit
    if a.1 then (a.2.setDirty 0 0 0 0).setRes 1 else a.2.setRes 0

/-- FLUSH (R84). -/
def execFlush (s : State) : Host.Outcome State Fault Refusal :=
  s.finish 1 (.ok (flushEffect s))

end Sys2Proof.Machine
end

