-- ==== Sys2Proof/Machine/Oval.lean ====
section
/-! DEFINITION. Ovals: FRAMEOVAL, PAINTOVAL (R100 to R106). -/

namespace Sys2Proof.Machine

/-- The variables of the oval walk (R101): two columns, two rows, the error deltas and the error term. -/
structure OvalVars where
  x0 : Int
  x1 : Int
  y0 : Int
  y1 : Int
  dx : Int
  dy : Int
  err : Int
  deriving DecidableEq, Repr

/-- The setup of R101, for `w >= 1` and `h >= 1`. -/
def ovalSetup (x y : Int) (w h : Nat) : OvalVars :=
  let a : Int := w - 1
  let b : Int := h - 1
  let b1 : Int := b % 2
  let dx := 4 * (1 - a) * b * b
  let dy := 4 * (b1 + 1) * a * a
  let y0 := y + (b + 1) / 2
  ⟨x, x + a, y0, y0 - b1, dx, dy, dx + dy + b1 * a * a⟩

/-- The y step of R102. -/
def ovalStepY (a8 : Int) (v : OvalVars) : OvalVars :=
  { v with y0 := v.y0 + 1, y1 := v.y1 - 1, dy := v.dy + a8, err := v.err + (v.dy + a8) }

/-- The x step of R102. -/
def ovalStepX (b8 : Int) (v : OvalVars) : OvalVars :=
  { v with x0 := v.x0 + 1, x1 := v.x1 - 1, dx := v.dx + b8, err := v.err + (v.dx + b8) }

/-- One iteration's updates (R102): `e2` is taken before any update, the x test uses the updated `err` and `dy`. -/
def ovalStep (a8 b8 : Int) (v : OvalVars) : OvalVars :=
  let e2 := 2 * v.err
  let u := if e2 ≤ v.dy then ovalStepY a8 v else v
  if e2 ≥ v.dx ∨ 2 * u.err > u.dy then ovalStepX b8 u else u

/-- `Emit(x0, x1, y0, y1)` (R103): four boundary pixels, or four runs to the starting rows `ym0`, `ym1`. -/
def ovalEmit (fill : Bool) (ym0 ym1 : Int) (v : OvalVars) : List SinkCall :=
  if fill then
    [.vrun v.x1 ym0 v.y0, .vrun v.x0 ym0 v.y0, .vrun v.x0 v.y1 ym1, .vrun v.x1 v.y1 ym1]
  else
    [.pixel v.x1 v.y0, .pixel v.x0 v.y0, .pixel v.x0 v.y1, .pixel v.x1 v.y1]

/-- The main loop of R102, at most `fuel` iterations: the calls made and the variables when it ends. -/
def ovalMain (emit : OvalVars → List SinkCall) (a8 b8 : Int) : Nat → OvalVars → List SinkCall × OvalVars
  | 0, v => ([], v)
  | fuel + 1, v =>
    let u := ovalStep a8 b8 v
    if u.x0 ≤ u.x1 then
      let r := ovalMain emit a8 b8 fuel u
      (emit v ++ r.1, r.2)
    else (emit v, u)

/-- The trailing loop of R104, at most `fuel` iterations. -/
def ovalTrail (b : Int) : Nat → OvalVars → List SinkCall
  | 0, _ => []
  | fuel + 1, v =>
    if v.y0 - v.y1 ≤ b then
      [.pixel (v.x0 - 1) v.y0, .pixel (v.x1 + 1) v.y0, .pixel (v.x0 - 1) v.y1, .pixel (v.x1 + 1) v.y1] ++
        ovalTrail b fuel { v with y0 := v.y0 + 1, y1 := v.y1 - 1 }
    else []

/-- The sink calls of `Oval(x, y, w, h, fill)` (R101 to R104), for `w >= 1` and `h >= 1`. The main loop ends after at
most `w + h` iterations (R107 (a)); the trailing loop moves the rows apart by 2 and so ends within `h`. -/
def ovalCalls (fill : Bool) (x y : Int) (w h : Nat) : List SinkCall :=
  let a : Int := w - 1
  let b : Int := h - 1
  let v := ovalSetup x y w h
  let r := ovalMain (ovalEmit fill v.y0 v.y1) (8 * a * a) (8 * b * b) (w + h) v
  r.1 ++ ovalTrail b h r.2

/-- FRAMEOVAL (R105). -/
def execFrameoval (x y w h : Byte) (s : State) : Host.Outcome State Fault Refusal :=
  s.finish 5 (drawShape x y w h (ovalCalls false x.int y.int w.toNat h.toNat) s)

/-- PAINTOVAL (R106). -/
def execPaintoval (x y w h : Byte) (s : State) : Host.Outcome State Fault Refusal :=
  s.finish 5 (drawShape x y w h (ovalCalls true x.int y.int w.toNat h.toNat) s)

end Sys2Proof.Machine
end

