-- ==== Sys2Proof/Machine/Text.lean ====
section
/-! DEFINITION. Text: WIDTHC, WIDTHS, DRAWCHAR, DRAWSTR (R120 to R125). -/

namespace Sys2Proof.Machine

/-- `WidthOf(code)` (R121): the advance of the glyph, 0 where there is none. -/
def widthOf (s : State) (code : Byte) : Except FaultCode Nat :=
  match s.glyph code with
  | .ok (some g) => .ok g.xAdvance.toNat
  | .ok none => .ok 0
  | .error k => .error k

/-- The sum of `WidthOf` over a string (R123), added to `sum`. -/
def widthSum (s : State) (sum : Nat) : List Byte → Except FaultCode Nat
  | [] => .ok sum
  | c :: rest =>
    match widthOf s c with
    | .ok n => widthSum s (sum + n) rest
    | .error k => .error k

/-- The pixels of a render box, row by row, as `(column, row)` (R124). -/
def boxCells (width height : Nat) : List (Nat × Nat) :=
  (List.range height).flatMap fun r => (List.range width).map fun c => (c, r)

/-- Walk bitmap cells of glyph `g` placed at `(ox, oy)` (R124): read each bit, one `SinkPixel` per set bit, up to the
first fault (R136). -/
def blitCells (g : Glyph) (ox oy : Byte) : List (Nat × Nat) → State → Except FaultCode State
  | [], s => .ok s
  | cr :: rest, s =>
    match s.bitmapBit (g.bitmapOffset + cr.2 * g.width + cr.1) with
    | .error k => .error k
    | .ok false => blitCells g ox oy rest s
    | .ok true =>
      match (SinkCall.pixel (ox.int + cr.1) (oy.int + cr.2)).run s with
      | .error k => .error k
      | .ok t => blitCells g ox oy rest t

/-- Draw glyph `g` at the cursor (R124): mark its box, blit it, advance `CURX`. -/
def drawGlyph (g : Glyph) (s : State) : Except FaultCode State :=
  let ox := wrap8 (s.curx.int + g.xOffset)
  let oy := wrap8 (s.cury.int + g.yOffset)
  match blitCells g ox oy (boxCells g.width g.height) (s.markDirty ox.int oy.int g.width g.height) with
  | .ok t => .ok (t.setCursor (t.curx + g.xAdvance) t.cury)
  | .error k => .error k

/-- The effect of DRAWCHAR (R124): no font, or a code outside the font, changes nothing. -/
def drawChar (code : Byte) (s : State) : Except FaultCode State :=
  match s.glyph code with
  | .ok (some g) => drawGlyph g s
  | .ok none => .ok s
  | .error k => .error k

/-- The effect of DRAWSTR (R125): DRAWCHAR for every code in sequence. -/
def drawString : List Byte → State → Except FaultCode State
  | [], s => .ok s
  | c :: rest, s =>
    match drawChar c s with
    | .ok t => drawString rest t
    | .error k => .error k

/-- WIDTHC (R122). -/
def execWidthc (code : Byte) (s : State) : Host.Outcome State Fault Refusal :=
  s.finish 2 (match widthOf s code with
    | .ok n => .ok (s.setRes (BitVec.ofNat 16 n))
    | .error k => .error k)

/-- WIDTHS (R123). -/
def execWidths (codes : List Byte) (s : State) : Host.Outcome State Fault Refusal :=
  s.finish (2 + codes.length) (match widthSum s 0 codes with
    | .ok n => .ok (s.setRes (BitVec.ofNat 16 n))
    | .error k => .error k)

/-- DRAWCHAR (R124). -/
def execDrawchar (code : Byte) (s : State) : Host.Outcome State Fault Refusal :=
  s.finish 2 (drawChar code s)

/-- DRAWSTR (R125). -/
def execDrawstr (codes : List Byte) (s : State) : Host.Outcome State Fault Refusal :=
  s.finish (2 + codes.length) (drawString codes s)

end Sys2Proof.Machine
end

