-- ==== Sys2Proof/Machine/Dispatch.lean ====
section
/-! DEFINITION. The meaning of every command (R68), one arm each. -/

namespace Sys2Proof.Machine

def exec (i : Instr) (s : State) : Host.Outcome State Fault Refusal :=
  match i with
  -- control (45_control.md)
  | .moveto x y => Sys2Proof.Machine.execMoveto x y s
  | .setmode m => Sys2Proof.Machine.execSetmode m s
  | .setfont en => Sys2Proof.Machine.execSetfont en s
  | .clear => Sys2Proof.Machine.execClear s
  -- dirty tracker (40_dirty.md)
  | .markdirty left top width height => Sys2Proof.Machine.execMarkdirty left top width height s
  | .invalidate => Sys2Proof.Machine.execInvalidate s
  | .validate => Sys2Proof.Machine.execValidate s
  | .flush => Sys2Proof.Machine.execFlush s
  -- pixels, lines and rectangles (41_line_rect.md)
  | .pixel x y => Sys2Proof.Machine.execPixel x y s
  | .lineto x y => Sys2Proof.Machine.execLineto x y s
  | .framerect x y w h => Sys2Proof.Machine.execFramerect x y w h s
  | .paintrect x y w h => Sys2Proof.Machine.execPaintrect x y w h s
  -- ovals (42_oval.md)
  | .frameoval x y w h => Sys2Proof.Machine.execFrameoval x y w h s
  | .paintoval x y w h => Sys2Proof.Machine.execPaintoval x y w h s
  -- corners and rounded rectangles (43_corner_roundrect.md)
  | .corner cx cy r m => Sys2Proof.Machine.execCorner cx cy r m s
  | .framerrect x y w h corner => Sys2Proof.Machine.execFramerrect x y w h corner s
  | .paintrrect x y w h corner => Sys2Proof.Machine.execPaintrrect x y w h corner s
  -- text (44_text.md)
  | .widthc code => Sys2Proof.Machine.execWidthc code s
  | .widths codes => Sys2Proof.Machine.execWidths codes s
  | .drawchar code => Sys2Proof.Machine.execDrawchar code s
  | .drawstr codes => Sys2Proof.Machine.execDrawstr codes s

end Sys2Proof.Machine
end

