-- ==== Sys2Proof/Machine/Step.lean ====
section
/-! DEFINITION. One step of the engine (R72): fetch at `CP`, decode, execute. -/

namespace Sys2Proof.Machine

/-- One step (R72). It is defined when `FAULT = 0` and `CP < CS_SIZE`: a faulted engine is stuck (R134), a final
state has no step (R73). Bytes that are no command raise `IllegalCommand` before anything else (R69, R136). -/
def step (s : State) : Host.Outcome State Fault Refusal :=
  if s.fault then .fault .engineFaulted
  else if s.admitted = false then .refused .parametersNotAdmitted
  else if s.isFinal then .refused .runOver
  else if s.cs.size < s.cp.toNat then .refused .commandPointerBeyondStream
  else
    match decode s.fetchBytes with
    | .ok i => exec i s
    | .error _ => .next (s.takeFault .illegalCommand)

/-- `s` with the instruction of a table word in the command stream at `CP`, where `step` fetches next. It stands for
the host's handing over of a stream (log entry 2). -/
def State.withFetchWord (s : State) (nbits w : Nat) : State :=
  { s with cs := s.cs.place s.cp.toNat (tableCommandBytes nbits w) }

end Sys2Proof.Machine
end

