-- ==== Sys2Proof/Safety.lean ====
section
/-! DEFINITION. The terms claims are stated in: the invariant of a run (R36, R37, R59), the cover of a pixel by sink
calls (R47, R48), plain boxes (R78), the calls and the box of a drawing command, and the discipline under which a
command raises no fault (R150). -/

namespace Sys2Proof.Machine

/-! ## The invariant -/

/-- The code `FCODE` may hold beside `FAULT` (R29, R132): 0 without a fault, 1 to 4 with one. -/
def State.statusLegal (s : State) : Prop :=
  (s.fault = false ∧ s.fcode = 0) ∨ (s.fault = true ∧ 1 ≤ s.fcode.toNat ∧ s.fcode.toNat ≤ 4)

/-- What every step keeps. `MODE` is never 3 (R36 (a)) by the type of the field. -/
structure State.Inv (s : State) : Prop where
  /-- The parameters are those R8 to R10 admit. -/
  admitted : s.admitted = true
  /-- The framebuffer is in its canonical form. -/
  fbCanonical : s.fb.wf = true
  /-- No byte outside `FB` is ever written (R39, R59): `FB` is never resized (R37). -/
  fbInside : ∀ c ∈ s.fb.cells, c.1 < s.fbSize
  /-- `CP <= CS_SIZE` (R36 (d)). -/
  cpInside : s.cp.toNat ≤ s.cs.size
  /-- `FAULT` and `FCODE` agree (R29). -/
  statusLegal : s.statusLegal
  /-- The free content of `FB` is one already drawn. -/
  fillDrawn : ∀ k, s.fb.fill = .free k → k < s.draws

/-- Parameters R8 to R10 admit, before reset. -/
def RunParams.admitted (p : RunParams) : Bool :=
  decide (1 ≤ p.width.toNat) && decide (p.fm.size ≤ 65536) && decide (p.bm.size ≤ 65536) && decide (p.cs.size ≤ 65535)

/-! ## Frames -/

/-- No parameter of the run differs (R21, R23). -/
structure SameParams (s t : State) : Prop where
  width : t.width = s.width
  height : t.height = s.height
  fm : t.fm = s.fm
  bm : t.bm = s.bm
  cs : t.cs = s.cs

/-- Nothing outside the engine's registers and `FB` differs: parameters, answers, transmissions, draws. -/
structure SameSurroundings (s t : State) : Prop where
  params : SameParams s t
  answers : t.answers = s.answers
  transmissions : t.transmissions = s.transmissions
  draws : t.draws = s.draws

/-- A command executed in `s` has raised fault `k` (R132, R134): what a faulted state defines is `FAULT`, `FCODE` and
`CP`, which is still the command's own. -/
def RaisesFault (o : Host.Outcome State Fault Refusal) (s : State) (k : FaultCode) : Prop :=
  ∃ t, o = .next t ∧ t.fault = true ∧ t.fcode = k.code ∧ t.cp = s.cp

/-- The dirty rectangle as four bytes. -/
def State.dirty (s : State) : Byte × Byte × Byte × Byte := (s.dx, s.dy, s.dw, s.dh)

/-! ## Cover -/

/-- The sink call covers pixel `(u, v)` (R44, R45, R46), on its arguments reduced `mod 256`. -/
def SinkCall.covers (u v : Nat) : SinkCall → Bool
  | .pixel x y => (wrap8 x).toNat == u && (wrap8 y).toNat == v
  | .hrun l r y => decide ((wrap8 l).toNat ≤ u) && decide (u ≤ (wrap8 r).toNat) && (wrap8 y).toNat == v
  | .vrun x t b => (wrap8 x).toNat == u && decide ((wrap8 t).toNat ≤ v) && decide (v ≤ (wrap8 b).toNat)

/-- The multiplicity of pixel `(u, v)` in a sequence of sink calls (R48). -/
def multiplicity (calls : List SinkCall) (u v : Nat) : Nat := calls.countP (SinkCall.covers u v)

/-- A pixel covered `n` times in a draw mode (R48). -/
def blendBit (mode : DrawMode) (old : Bool) (n : Nat) : Bool :=
  match mode with
  | .set => old || decide (1 ≤ n)
  | .clear => old && decide (n = 0)
  | .invert => xor old (n % 2 == 1)

/-- Pixel `(u, v)` lies in the box (R17). -/
def inBox (x y w h u v : Nat) : Bool := decide (x ≤ u) && decide (u < x + w) && decide (y ≤ v) && decide (v < y + h)

/-- Pixel `(u, v)` lies on the border of the box (R98). -/
def onBorder (x y w h u v : Nat) : Bool :=
  inBox x y w h u v && (u == x || u + 1 == x + w || v == y || v + 1 == y + h)

/-- The box lies wholly on the display: `x + w <= W` and `y + h <= H` as `int` (R97, R150). -/
def State.boxOnDisplay (s : State) (x y w h : Nat) : Bool := decide (x + w ≤ s.w) && decide (y + h ≤ s.h)

/-! ## Boxes of the tracker -/

/-- A plain box (R78): `l + w <= 255` and `t + h <= 255` as `int`. -/
def plainBox (l t w h : Byte) : Bool := decide (l.toNat + w.toNat ≤ 255) && decide (t.toNat + h.toNat ≤ 255)

/-- The tracked rectangle is empty or plain: the premise of R78. -/
def State.dirtyPlain (s : State) : Bool := s.dirtyEmpty || plainBox s.dx s.dy s.dw s.dh

/-- A box as the tracker's argument. -/
abbrev TrackedBox := Byte × Byte × Byte × Byte

/-- The box is not empty (R17) and plain (R78). -/
def plainTrackedBox (b : TrackedBox) : Bool :=
  b.2.2.1 != 0 && b.2.2.2 != 0 && plainBox b.1 b.2.1 b.2.2.1 b.2.2.2

/-- A sequence of `MarkDirty` calls (R79). -/
def State.markBoxes (s : State) : List TrackedBox → State
  | [] => s
  | b :: rest => (s.markBox b.1 b.2.1 b.2.2.1 b.2.2.2).markBoxes rest

/-- `(l, t, w, h)` contains the box `b`, as `int` (R78). -/
def containsBox (l t w h : Byte) (b : TrackedBox) : Prop :=
  l.toNat ≤ b.1.toNat ∧ t.toNat ≤ b.2.1.toNat ∧
  b.1.toNat + b.2.2.1.toNat ≤ l.toNat + w.toNat ∧ b.2.1.toNat + b.2.2.2.toNat ≤ t.toNat + h.toNat

/-! ## Drawing commands -/

/-- The sink calls of a command that draws a shape, in the order its rule makes them. None for the other commands. -/
def shapeCalls (s : State) : Instr → Option (List SinkCall)
  | .pixel x y => some [.pixel x.int y.int]
  | .lineto x y => some (lineCalls s.curx.int s.cury.int x.int y.int)
  | .framerect x y w h => some (if w = 0 ∨ h = 0 then [] else frameBody x.int y.int w.toNat h.toNat)
  | .paintrect x y w h => some (if w = 0 ∨ h = 0 then [] else paintBody x.int y.int w.toNat h.toNat)
  | .frameoval x y w h => some (if w = 0 ∨ h = 0 then [] else ovalCalls false x.int y.int w.toNat h.toNat)
  | .paintoval x y w h => some (if w = 0 ∨ h = 0 then [] else ovalCalls true x.int y.int w.toNat h.toNat)
  | .corner cx cy r m => some (cornerCalls cx.int cy.int r.toNat m)
  | .framerrect x y w h c => some (if w = 0 ∨ h = 0 then []
      else roundRectCalls false x.int y.int w.toNat h.toNat (clampRadius w.toNat h.toNat c.toNat))
  | .paintrrect x y w h c => some (if w = 0 ∨ h = 0 then []
      else roundRectCalls true x.int y.int w.toNat h.toNat (clampRadius w.toNat h.toNat c.toNat))
  | .moveto _ _ | .setmode _ | .setfont _ | .clear | .markdirty _ _ _ _ | .invalidate | .validate | .flush
  | .widthc _ | .widths _ | .drawchar _ | .drawstr _ => none

/-- The state with the box or boxes the command's rule declares marked dirty (R87). -/
def shapeMarked (s : State) : Instr → State
  | .pixel x y => s.markDirty x.int y.int 1 1
  | .lineto x y => s.markDirty (min s.curx.int x.int) (min s.cury.int y.int)
      ((x.int - s.curx.int).natAbs + 1) ((y.int - s.cury.int).natAbs + 1)
  | .framerect x y w h | .paintrect x y w h | .frameoval x y w h | .paintoval x y w h
  | .framerrect x y w h _ | .paintrrect x y w h _ => s.markDirty x.int y.int w.int h.int
  | .corner cx cy r m => markCorner cx.int cy.int r.int m s
  | .moveto _ _ | .setmode _ | .setfont _ | .clear | .markdirty _ _ _ _ | .invalidate | .validate | .flush
  | .widthc _ | .widths _ | .drawchar _ | .drawstr _ => s

/-- The boxes a command's rule passes to `MarkDirty` (R87, R80), as bytes, in order. DRAWSTR's depend on its characters
one after the other and are not listed. -/
def declaredBoxes (s : State) : Instr → List TrackedBox
  | .markdirty l t w h => [(l, t, w, h)]
  | .pixel x y => [(x, y, 1, 1)]
  | .lineto x y => [(minByte s.curx x, minByte s.cury y, maxByte s.curx x - minByte s.curx x + 1,
      maxByte s.cury y - minByte s.cury y + 1)]
  | .framerect x y w h | .paintrect x y w h | .frameoval x y w h | .paintoval x y w h
  | .framerrect x y w h _ | .paintrrect x y w h _ => [(x, y, w, h)]
  | .corner cx cy r m =>
      (if maskBit m 0 then [(cx - r, cy - r, r, r)] else []) ++ (if maskBit m 1 then [(cx + 1, cy - r, r, r)] else []) ++
      (if maskBit m 2 then [(cx + 1, cy + 1, r, r)] else []) ++ (if maskBit m 3 then [(cx - r, cy + 1, r, r)] else [])
  | .drawchar c =>
    match s.glyph c with
    | .ok (some g) => [(wrap8 (s.curx.int + g.xOffset), wrap8 (s.cury.int + g.yOffset), BitVec.ofNat 8 g.width,
        BitVec.ofNat 8 g.height)]
    | .ok none => []
    | .error _ => []
  | .moveto _ _ | .setmode _ | .setfont _ | .clear | .invalidate | .validate | .flush | .widthc _ | .widths _
  | .drawstr _ => []

/-- The cursor after a shape command: the target for LINETO (R90), unchanged for the others. -/
def shapeCursor (s : State) : Instr → Byte × Byte
  | .lineto x y => (x, y)
  | _ => (s.curx, s.cury)

/-- The byte addresses a shape command stores to: the byte indices of its sink calls' `Apply` calls. -/
def storedAddresses (s : State) (calls : List SinkCall) : List Nat :=
  calls.flatMap fun c => (c.writes s).map (·.1)

/-! ## Text -/

/-- The bit of glyph `g` at column `c`, row `r` is readable and set (R53). -/
def State.glyphBit (s : State) (g : Glyph) (c r : Nat) : Bool :=
  match s.bitmapBit (g.bitmapOffset + r * g.width + c) with
  | .ok b => b
  | .error _ => false

/-- The origin of glyph `g`'s render box (R124). -/
def State.glyphOrigin (s : State) (g : Glyph) : Byte × Byte :=
  (wrap8 (s.curx.int + g.xOffset), wrap8 (s.cury.int + g.yOffset))

/-- The pixels glyph `g` draws at the cursor: one per set bit, row by row (R124). -/
def State.glyphPixels (s : State) (g : Glyph) : List SinkCall :=
  ((boxCells g.width g.height).filter fun cr => s.glyphBit g cr.1 cr.2).map fun cr =>
    .pixel ((s.glyphOrigin g).1.int + cr.1) ((s.glyphOrigin g).2.int + cr.2)

/-- Glyph `g` can be drawn at the cursor (R150 (d)): its bits are in `BM`, and its set bits are on the display. -/
def State.glyphFits (s : State) (g : Glyph) : Bool :=
  (decide (g.width = 0) || decide (g.height = 0) || decide (g.bitmapOffset + g.width * g.height ≤ 8 * s.bm.size)) &&
    (s.glyphPixels g).all (SinkCall.inDomain s)

/-- The font table is as long as its header claims (R150 (d)). -/
def State.fontTableFits (s : State) : Bool :=
  let first := (cellsRead 0 0 s.fm.cells).toNat
  let last := (cellsRead 0 1 s.fm.cells).toNat
  decide (2 ≤ s.fm.size) && (decide (last < first) || decide (4 + 7 * (last - first + 1) ≤ s.fm.size))

/-- Every glyph of the string can be drawn where the cursor is when its turn comes (R150 (d), R125). -/
def State.textFits : State → List Byte → Bool
  | _, [] => true
  | s, c :: rest =>
    match s.glyph c with
    | .ok (some g) => s.glyphFits g && (s.setCursor (s.curx + g.xAdvance) s.cury).textFits rest
    | .ok none => s.textFits rest
    | .error _ => false

/-- The pixels a string draws, each glyph where the cursor is when its turn comes (R125). -/
def State.stringPixels : State → List Byte → List SinkCall
  | _, [] => []
  | s, c :: rest =>
    match s.glyph c with
    | .ok (some g) => s.glyphPixels g ++ (s.setCursor (s.curx + g.xAdvance) s.cury).stringPixels rest
    | .ok none => s.stringPixels rest
    | .error _ => []

/-- The DRAWCHAR commands of a string, one after the other (R125). -/
def drawEach : List Byte → State → Host.Outcome State Fault Refusal
  | [], s => .next s
  | c :: rest, s =>
    match exec (.drawchar c) s with
    | .next t => if t.fault then .next t else drawEach rest t
    | .fault r => .fault r
    | .refused r => .refused r

/-- What cell `k`, in row-major order, of glyph `g` drawn at the cursor raises (R124, R136 (4)): `FontRange` where its bit
lies outside `BM`, `SinkRange` where the bit is set and its pixel off the display, else nothing. -/
def State.cellFault (s : State) (g : Glyph) (k : Nat) : Option FaultCode :=
  match s.bitmapBit (g.bitmapOffset + k) with
  | .error e => some e
  | .ok bit =>
    let pixel := SinkCall.pixel ((s.glyphOrigin g).1.int + (k % g.width : Nat)) ((s.glyphOrigin g).2.int + (k / g.width : Nat))
    if bit && !pixel.inDomain s then some .sinkRange else none

/-! ## Corner arcs -/

/-- Every selected quadrant's `r × r` box about `(cx, cy)` lies in columns and rows 0 to 255, for a centre there (R113). -/
def quadrantsInRange (cx cy r : Nat) (m : Byte) : Bool :=
  (!maskBit m 0 || (decide (r ≤ cx) && decide (r ≤ cy))) && (!maskBit m 1 || (decide (cx + r ≤ 255) && decide (r ≤ cy))) &&
  (!maskBit m 2 || (decide (cx + r ≤ 255) && decide (cy + r ≤ 255))) &&
  (!maskBit m 3 || (decide (r ≤ cx) && decide (cy + r ≤ 255)))

/-- The pixel at offset `(ex, ey)` from the centre in the quadrant of mask bit `q` (R112): 0 top-left, 1 top-right,
2 bottom-right, 3 bottom-left. -/
def quadrantPixel (cx cy q ex ey : Nat) : Nat × Nat :=
  (if q = 0 ∨ q = 3 then cx - ex else cx + ex, if q = 0 ∨ q = 1 then cy - ey else cy + ey)

/-! ## Discipline -/

/-- Every selected quadrant box of CORNER lies on the display (R114, R150 (c)). -/
def State.cornerOnDisplay (s : State) (cx cy r : Nat) (m : Byte) : Bool :=
  (!maskBit m 0 || (decide (r ≤ cx) && decide (r ≤ cy) && s.boxOnDisplay (cx - r) (cy - r) r r)) &&
  (!maskBit m 1 || (decide (r ≤ cy) && s.boxOnDisplay (cx + 1) (cy - r) r r)) &&
  (!maskBit m 2 || s.boxOnDisplay (cx + 1) (cy + 1) r r) &&
  (!maskBit m 3 || (decide (r ≤ cx) && s.boxOnDisplay (cx - r) (cy + 1) r r))

/-- A shape's rectangle is empty, so that nothing is drawn (R88), or lies wholly on the display. -/
def State.shapeOnDisplay (s : State) (x y w h : Byte) : Bool :=
  w == 0 || h == 0 || s.boxOnDisplay x.toNat y.toNat w.toNat h.toNat

/-- The discipline of R150, (b) to (d), for one command. -/
def State.disciplined (s : State) : Instr → Bool
  | .moveto _ _ | .clear | .markdirty _ _ _ _ | .invalidate | .validate | .flush => true
  | .setmode m => decide (m.toNat ≤ 2)
  | .setfont en => decide (en.toNat ≤ 1)
  | .pixel x y => decide (x.toNat < s.w) && decide (y.toNat < s.h)
  | .lineto x y => decide (s.curx.toNat < s.w) && decide (s.cury.toNat < s.h) &&
      decide (x.toNat < s.w) && decide (y.toNat < s.h)
  | .framerect x y w h | .paintrect x y w h | .frameoval x y w h | .paintoval x y w h
  | .framerrect x y w h _ | .paintrrect x y w h _ => s.shapeOnDisplay x y w h
  | .corner cx cy r m => decide (m.toNat < 32) &&
      (decide (r.toNat < 2) || s.cornerOnDisplay cx.toNat cy.toNat r.toNat m)
  | .widthc _ | .widths _ => !s.fonten || s.fontTableFits
  | .drawchar c => !s.fonten || (s.fontTableFits && s.textFits [c])
  | .drawstr cs => !s.fonten || (s.fontTableFits && s.textFits cs)

/-! ## Fetch -/

/-- `len(op)` of R72 for the bytes of `CS` at `CP`: none where the opcode is not one of the 21 or where format S lacks
its count byte. -/
def State.commandLength? (s : State) : Option Nat :=
  match s.cs.read s.cp.toNat with
  | none => none
  | some b =>
    match opcodeRow? b with
    | none => none
    | some row =>
      if row.format = .S then (s.cs.read (s.cp.toNat + 1)).map fun n => 2 + n.toNat
      else some (1 + formatOperands row.format)

/-- A whole command is at `CP` (R69, R72). -/
def State.commandPresent (s : State) : Bool :=
  match s.commandLength? with
  | some n => decide (s.cp.toNat + n ≤ s.cs.size)
  | none => false

end Sys2Proof.Machine
end

