-- ==== Sys2Proof/Certificates/Slice0/Obligations.lean ====
section
/-! DEFINITION. The statements for the provers. Each docstring names the rule it formalises. -/

open Sys2Proof Sys2Proof.Machine

/-! ## Encoding and fetch -/

/-- R65 to R68: every command that has an encoding decodes from it, whatever bytes follow. -/
def Obligations.DecodeOfEncodeIsIdentity : Prop :=
  ∀ (i : Instr) (rest : List Byte), i.encodable = true → decode (encode i ++ rest) = .ok i

/-- R65, R66, R72: what the decoder reads is the encoding of its answer, of the answer's length. -/
def Obligations.EncodeOfDecodeIsTheBytesRead : Prop :=
  ∀ (bytes : List Byte) (i : Instr), decode bytes = .ok i →
    i.encodable = true ∧ i.length ≤ bytes.length ∧ encode i = bytes.take i.length

/-- R66, R67, R68: words written out from the encoding tables decode to the commands they stand for. -/
def Obligations.SpecWordsDecode : Prop :=
  decode [0x10, 0xC8, 0x64] = .ok (.moveto 200 100) ∧
  decode [0x20, 0x0A, 0x0B, 0x05, 0x06] = .ok (.markdirty 10 11 5 6) ∧
  decode [0x31, 0x7F, 0x3F] = .ok (.lineto 127 63) ∧
  decode [0x42, 0x08, 0x09, 0x04, 0x1F] = .ok (.corner 8 9 4 0x1F) ∧
  decode [0x44, 0x02, 0x03, 0x14, 0x0A, 0x05] = .ok (.paintrrect 2 3 20 10 5) ∧
  decode [0x53, 0x02, 0x48, 0x69] = .ok (.drawstr [0x48, 0x69])

/-- R69: an opcode byte outside the table, and a command whose bytes run past the stream, raise `IllegalCommand` and
change nothing else; every other command is executed. -/
def Obligations.IllegalCommandIsTakenPrecisely : Prop :=
  ∀ s : State, s.fault = false → s.admitted = true → s.cp.toNat < s.cs.size →
    (∀ b : Byte, s.cs.read s.cp.toNat = some b →
      (b.toNat ≤ 0x0F ∨ (0x14 ≤ b.toNat ∧ b.toNat ≤ 0x1F) ∨ (0x24 ≤ b.toNat ∧ b.toNat ≤ 0x2F) ∨
        (0x34 ≤ b.toNat ∧ b.toNat ≤ 0x3F) ∨ (0x45 ≤ b.toNat ∧ b.toNat ≤ 0x4F) ∨ 0x54 ≤ b.toNat) →
      step s = .next { s with fault := true, fcode := 1 }) ∧
    (s.commandPresent = false → step s = .next { s with fault := true, fcode := 1 }) ∧
    (s.commandPresent = true →
      ∃ i, decode s.fetchBytes = .ok i ∧ s.commandLength? = some i.length ∧ step s = exec i s)

/-- R72: a step runs the command the bytes of `CS` at `CP` decode to, and so the command whose encoding stands there.
`exec` itself moves `CP` past the command (`CommandPointerAdvancesByTheLength`). -/
def Obligations.StepRunsTheDecodedCommand : Prop :=
  ∀ (s : State) (i : Instr), s.fault = false → s.admitted = true → s.cp.toNat < s.cs.size →
    (decode s.fetchBytes = .ok i → step s = exec i s) ∧
    (i.encodable = true → (∀ k, k < i.length → s.cs.read (s.cp.toNat + k) = (encode i)[k]?) →
      decode s.fetchBytes = .ok i)

/-- R72, R73, R134: a step is defined exactly for `FAULT = 0` and `CP < CS_SIZE`; it is then always a next state.
That no step is the outcome `engineFaulted` or `runOver` is the model's choice (log entry 8). -/
def Obligations.StepIsDefinedExactlyBeforeTheEnd : Prop :=
  ∀ s : State,
    (s.fault = true → step s = .fault .engineFaulted) ∧
    (s.fault = false → s.admitted = true → s.cp.toNat = s.cs.size → step s = .refused .runOver) ∧
    (s.fault = false → s.admitted = true → s.cp.toNat < s.cs.size → ∃ t, step s = .next t)

/-- R30, R72, R134: every command answers a next state. Either it has completed, with `CP` moved by its length and
`STATUS` unchanged, or it has raised one of the faults 2 to 4, with `CP` unchanged. -/
def Obligations.CommandPointerAdvancesByTheLength : Prop :=
  ∀ (i : Instr) (s : State), ∃ t, exec i s = .next t ∧
    ((t.cp = s.cp + BitVec.ofNat 16 i.length ∧ t.fault = s.fault ∧ t.fcode = s.fcode) ∨
     (t.cp = s.cp ∧ t.fault = true ∧ (t.fcode = 2 ∨ t.fcode = 3 ∨ t.fcode = 4)))

/-- R30, R21, R23, R54, R63: a step that raises no fault moves `CP` upward, never past the end and never around; a
fault leaves it. No step changes `W`, `H`, `FM`, `BM` or `CS`. -/
def Obligations.StepsMoveForwardAndKeepTheParameters : Prop :=
  ∀ s t : State, step s = .next t →
    (t.fault = false → s.cp.toNat < t.cp.toNat ∧ t.cp.toNat ≤ s.cs.size) ∧ (t.fault = true → t.cp = s.cp) ∧
    SameParams s t

/-! ## Reset, invariant, runs -/

/-- R145, R146, R147, R23, R32: every register after reset, for all parameters of a run, and the register port's view of
them; and after a reset asserted again in any state, which keeps `WIDTH`, `HEIGHT` and `NPAGES` and nothing else.
The framebuffer's bytes are the free values of the draw the reset makes (log entry 3): no value of theirs can be
proved. -/
def Obligations.ResetLeavesTheSpecifiedValues : Prop :=
  (∀ (p : RunParams) (draw : Nat),
    let s := State.afterReset p draw
    s.width = p.width ∧ s.height = p.height ∧ s.curx = 0 ∧ s.cury = 0 ∧ s.dirty = (0, 0, 0, 0) ∧ s.mode = .set ∧
    s.fonten = false ∧ s.res = 0 ∧ s.fault = false ∧ s.fcode = 0 ∧ s.cp = 0 ∧
    s.fm = p.fm ∧ s.bm = p.bm ∧ s.cs = p.cs ∧ (∀ a, s.fb.read a = Config.freeCell draw a) ∧
    s.readPort 0 = p.width ∧ s.readPort 1 = BitVec.ofNat 8 p.height.rows ∧
    s.readPort 2 = BitVec.ofNat 8 (p.height.rows / 8) ∧
    (∀ a : Byte, 3 ≤ a.toNat → s.readPort a = 0)) ∧
  (∀ (s : State) (fm bm cs : Rom) (answers : List Bool),
    let t := s.reassertReset fm bm cs answers
    t.width = s.width ∧ t.height = s.height ∧ t.pages = s.pages ∧ t.curx = 0 ∧ t.cury = 0 ∧ t.dirty = (0, 0, 0, 0) ∧
    t.mode = .set ∧ t.fonten = false ∧ t.res = 0 ∧ t.fault = false ∧ t.fcode = 0 ∧ t.cp = 0 ∧
    t.fm = fm ∧ t.bm = bm ∧ t.cs = cs ∧ (∀ a, t.fb.read a = Config.freeCell s.draws a) ∧
    (∀ a : Byte, a.toNat < 3 → t.readPort a = s.readPort a) ∧ (∀ a : Byte, 3 ≤ a.toNat → t.readPort a = 0))

/-- R36, R37, R59: the invariant holds after reset with admitted parameters, and at `State.reset`. -/
def Obligations.ResetMeetsTheInvariant : Prop :=
  (∀ (p : RunParams) (draw : Nat), p.admitted = true → (State.afterReset p draw).Inv) ∧ State.reset.Inv

/-- R36, R37, R39, R29, R59: every step keeps the invariant: the framebuffer stays canonical and inside `W * PAGES`
bytes, `CP` stays within the stream, `FAULT` and `FCODE` agree. -/
def Obligations.StepKeepsTheInvariant : Prop :=
  ∀ s t : State, s.Inv → step s = .next t → t.Inv

/-- R153: a run has at most `CS_SIZE - CP` steps; after one more there is no next state
(log entry 8). -/
def Obligations.RunsAreFinite : Prop :=
  ∀ s : State, s.Inv → ∀ t, core.run (s.cs.size - s.cp.toNat + 1) s ≠ .next t

/-- R135: nothing but reset leaves a faulted state, and reset clears `FAULT` and `FCODE`. That a faulted engine's
missing step is the outcome `engineFaulted` is the model's choice (log entry 8). -/
def Obligations.OnlyResetClearsAFault : Prop :=
  ∀ s : State, s.fault = true →
    (∀ n, core.run (n + 1) s = .fault .engineFaulted) ∧
    ∀ (fm bm cs : Rom) (answers : List Bool),
      let t := s.reassertReset fm bm cs answers
      t.fault = false ∧ t.fcode = 0 ∧ t.cp = 0

/-- R32: the register port. `CTRL`, `STATUS` and `RES` are packed as the table says, everything else reads 0. -/
def Obligations.RegisterPortReadsTheRegisters : Prop :=
  ∀ s : State,
    s.readPort 0x00 = s.width ∧ (s.readPort 0x01).toNat = s.height.rows ∧
    (s.readPort 0x02).toNat = s.height.rows / 8 ∧ s.readPort 0x03 = s.curx ∧ s.readPort 0x04 = s.cury ∧
    s.readPort 0x05 = s.dx ∧ s.readPort 0x06 = s.dy ∧ s.readPort 0x07 = s.dw ∧ s.readPort 0x08 = s.dh ∧
    (s.readPort 0x09).toNat =
      (match s.mode with | .set => 0 | .clear => 1 | .invert => 2) + 4 * s.fonten.toNat ∧
    (s.readPort 0x0A).toNat = s.fault.toNat + 2 * s.fcode.toNat ∧
    (s.readPort 0x0B).toNat = s.res.toNat % 256 ∧ (s.readPort 0x0C).toNat = s.res.toNat / 256 ∧
    (∀ a : Byte, 0x0D ≤ a.toNat → s.readPort a = 0)

/-! ## Faults -/

/-- R70: a reserved operand raises `IllegalOperand` before any state changes, and no other operand does. -/
def Obligations.ReservedOperandsRaiseIllegalOperand : Prop :=
  ∀ s : State,
    (∀ m : Byte, 3 ≤ m.toNat → exec (.setmode m) s = .next { s with fault := true, fcode := 2 }) ∧
    (∀ en : Byte, 2 ≤ en.toNat → exec (.setfont en) s = .next { s with fault := true, fcode := 2 }) ∧
    (∀ cx cy r m : Byte, 32 ≤ m.toNat → exec (.corner cx cy r m) s = .next { s with fault := true, fcode := 2 }) ∧
    (∀ (i : Instr) (t : State), i.legalOperands = true → exec i s = .next t → s.fault = false → t.fault = true →
      t.fcode = 3 ∨ t.fcode = 4)

/-- R132, R134: fault entry by a command. `FAULT` and `FCODE` are set, `CP` and the parameters of the run stay,
`IllegalOperand` changes nothing else, and the engine has no further step (outcome `engineFaulted`, log entry 8). -/
def Obligations.FaultEntryStopsTheEngine : Prop :=
  ∀ (i : Instr) (s t : State), s.fault = false → exec i s = .next t → t.fault = true →
    t.cp = s.cp ∧ SameParams s t ∧ (t.fcode = 2 ∨ t.fcode = 3 ∨ t.fcode = 4) ∧
    (t.fcode = 2 → t = { s with fault := true, fcode := 2 }) ∧
    step t = .fault .engineFaulted ∧ t.isFinal = false

/-- R87, R132, R136: whether a command faults, and with which code, depends on the display's size, the cursor, the
font and the operands alone: not on `FB`, `MODE`, the dirty rectangle, `RES` or the host's answers. -/
def Obligations.FaultsDependOnGeometryAndFontOnly : Prop :=
  ∀ (i : Instr) (s s' t t' : State), s.width = s'.width → s.height = s'.height → s.curx = s'.curx →
    s.cury = s'.cury → s.fonten = s'.fonten → s.fm = s'.fm → s.bm = s'.bm → s.fault = false → s'.fault = false →
    s.fcode = s'.fcode → exec i s = .next t → exec i s' = .next t' → t.fault = t'.fault ∧ t.fcode = t'.fcode

/-- R150: under the discipline a command completes: it answers a next state with `CP` moved past it and `STATUS`
unchanged. -/
def Obligations.DisciplinedCommandsRaiseNoFault : Prop :=
  ∀ (i : Instr) (s : State), s.disciplined i = true →
    ∃ t, exec i s = .next t ∧ t.cp = s.cp + BitVec.ofNat 16 i.length ∧ t.fault = s.fault ∧ t.fcode = s.fcode

/-! ## Control -/

/-- R127: MOVETO writes the cursor, whatever the position, and nothing else. -/
def Obligations.MovetoSetsTheCursor : Prop :=
  ∀ (s : State) (x y : Byte) (rest : List Byte),
    decode (0x10 :: x :: y :: rest) = .ok (.moveto x y) ∧
    exec (.moveto x y) s = .next { s with curx := x, cury := y, cp := s.cp + 3 }

/-- R128: SETMODE 0, 1, 2 set the mode and nothing else; every other operand raises `IllegalOperand`. -/
def Obligations.SetmodeSetsTheMode : Prop :=
  ∀ (s : State) (m : Byte) (rest : List Byte),
    decode (0x11 :: m :: rest) = .ok (.setmode m) ∧
    (m.toNat = 0 → exec (.setmode m) s = .next { s with mode := .set, cp := s.cp + 2 }) ∧
    (m.toNat = 1 → exec (.setmode m) s = .next { s with mode := .clear, cp := s.cp + 2 }) ∧
    (m.toNat = 2 → exec (.setmode m) s = .next { s with mode := .invert, cp := s.cp + 2 }) ∧
    (3 ≤ m.toNat → exec (.setmode m) s = .next { s with fault := true, fcode := 2 })

/-- R129: SETFONT 0, 1 set `FONTEN` and nothing else, whatever the font memory; every other operand faults. -/
def Obligations.SetfontAttachesTheFont : Prop :=
  ∀ (s : State) (en : Byte) (rest : List Byte),
    decode (0x12 :: en :: rest) = .ok (.setfont en) ∧
    (en.toNat = 0 → exec (.setfont en) s = .next { s with fonten := false, cp := s.cp + 2 }) ∧
    (en.toNat = 1 → exec (.setfont en) s = .next { s with fonten := true, cp := s.cp + 2 }) ∧
    (2 ≤ en.toNat → exec (.setfont en) s = .next { s with fault := true, fcode := 2 })

/-- R130: after CLEAR every byte of `FB` and every pixel is 0 in every mode, the dirty rectangle is the whole display,
and nothing else differs. -/
def Obligations.ClearZeroesTheFramebuffer : Prop :=
  ∀ (s : State) (rest : List Byte), decode (0x13 :: rest) = .ok .clear ∧
    ∃ t, exec .clear s = .next t ∧
      t = { s with fb := t.fb, dx := 0, dy := 0, dw := s.width, dh := BitVec.ofNat 8 s.h, cp := s.cp + 1 } ∧
      (∀ a, a < s.fbSize → t.hostReadFb a = some 0) ∧ (∀ u v, t.pixelAt u v = false) ∧ t.fb.wf = true

/-! ## The tracker and FLUSH -/

/-- R77, R81: MARKDIRTY on every operand: a zero size is a no-op, an empty rectangle adopts the box, otherwise the
union is formed on 8-bit wrapped edges. Nothing but the rectangle and `CP` differs. -/
def Obligations.MarkdirtyFormsTheWrappedUnion : Prop :=
  ∀ (s : State) (l t w h : Byte) (rest : List Byte),
    decode (0x20 :: l :: t :: w :: h :: rest) = .ok (.markdirty l t w h) ∧
    ∃ u, exec (.markdirty l t w h) s = .next u ∧
      u = { s with dx := u.dx, dy := u.dy, dw := u.dw, dh := u.dh, cp := s.cp + 5 } ∧
      (w = 0 ∨ h = 0 → u.dirty = s.dirty) ∧
      (w ≠ 0 → h ≠ 0 → s.dw = 0 ∨ s.dh = 0 → u.dirty = (l, t, w, h)) ∧
      (w ≠ 0 → h ≠ 0 → s.dw ≠ 0 → s.dh ≠ 0 →
        let nl := min s.dx.toNat l.toNat
        let nt := min s.dy.toNat t.toNat
        let nr := max ((s.dx.toNat + s.dw.toNat) % 256) ((l.toNat + w.toNat) % 256)
        let nb := max ((s.dy.toNat + s.dh.toNat) % 256) ((t.toNat + h.toNat) % 256)
        u.dx.toNat = nl ∧ u.dy.toNat = nt ∧ u.dw.toNat = (256 + nr - nl) % 256 ∧ u.dh.toNat = (256 + nb - nt) % 256)

/-- R78: uniting a plain box into an empty or plain rectangle wraps nowhere, gives a plain rectangle, and gives the
smallest box that contains both. -/
def Obligations.PlainBoxesUniteWithoutWrap : Prop :=
  ∀ (s : State) (b : TrackedBox), s.dirtyPlain = true → plainTrackedBox b = true →
    let u := s.markBox b.1 b.2.1 b.2.2.1 b.2.2.2
    plainTrackedBox u.dirty = true ∧ containsBox u.dx u.dy u.dw u.dh b ∧
    (s.dirtyEmpty = true → u.dirty = b) ∧
    (s.dirtyEmpty = false →
      u.dx.toNat = min s.dx.toNat b.1.toNat ∧ u.dy.toNat = min s.dy.toNat b.2.1.toNat ∧
      u.dx.toNat + u.dw.toNat = max (s.dx.toNat + s.dw.toNat) (b.1.toNat + b.2.2.1.toNat) ∧
      u.dy.toNat + u.dh.toNat = max (s.dy.toNat + s.dh.toNat) (b.2.1.toNat + b.2.2.2.toNat) ∧
      containsBox u.dx u.dy u.dw u.dh s.dirty ∧
      ∀ c : TrackedBox, containsBox c.1 c.2.1 c.2.2.1 c.2.2.2 s.dirty → containsBox c.1 c.2.1 c.2.2.1 c.2.2.2 b →
        containsBox c.1 c.2.1 c.2.2.1 c.2.2.2 u.dirty)

/-- R79, under the premise of R78: the tracker is monotone, absorbing, and free of the order of its boxes, whose
bounding box it ends in. -/
def Obligations.TrackerIsMonotoneAbsorbingOrderFree : Prop :=
  (∀ (s : State) (b : TrackedBox), s.dirtyPlain = true → s.dirtyEmpty = false → plainTrackedBox b = true →
    let u := s.markBox b.1 b.2.1 b.2.2.1 b.2.2.2
    containsBox u.dx u.dy u.dw u.dh s.dirty ∧ (containsBox s.dx s.dy s.dw s.dh b → u = s)) ∧
  (∀ (s : State) (bs bs' : List TrackedBox), s.dirtyEmpty = true → (∀ b ∈ bs, plainTrackedBox b = true) →
    bs.Perm bs' →
    s.markBoxes bs = s.markBoxes bs' ∧
    (∀ b ∈ bs, containsBox (s.markBoxes bs).dx (s.markBoxes bs).dy (s.markBoxes bs).dw (s.markBoxes bs).dh b) ∧
    ∀ c : TrackedBox, bs ≠ [] → (∀ b ∈ bs, containsBox c.1 c.2.1 c.2.2.1 c.2.2.2 b) →
      containsBox c.1 c.2.1 c.2.2.1 c.2.2.2 (s.markBoxes bs).dirty)

/-- R82, R83: INVALIDATE replaces the rectangle by the whole display, VALIDATE empties it, its origin zeroed too.
Neither changes anything else. -/
def Obligations.InvalidateAndValidateReplaceTheRectangle : Prop :=
  ∀ (s : State) (rest : List Byte),
    decode (0x21 :: rest) = .ok .invalidate ∧ decode (0x22 :: rest) = .ok .validate ∧
    exec .invalidate s =
      .next { s with dx := 0, dy := 0, dw := s.width, dh := BitVec.ofNat 8 s.height.rows, cp := s.cp + 1 } ∧
    exec .validate s = .next { s with dx := 0, dy := 0, dw := 0, dh := 0, cp := s.cp + 1 }

/-- R84, R85: FLUSH. An empty rectangle transmits nothing and succeeds. Otherwise the host is shown the rectangle and
`FB` and answers: success empties the rectangle and leaves `RES = 1`, failure leaves it and `RES = 0`. The answer is
the next one handed over; without one it may be either (log entry 5). -/
def Obligations.FlushReportsTheHostsAnswer : Prop :=
  ∀ (s : State) (rest : List Byte), decode (0x23 :: rest) = .ok .flush ∧
    (s.dirtyEmpty = true → exec .flush s = .next { s with res := 1, cp := s.cp + 1 }) ∧
    (s.dirtyEmpty = false →
      (∀ more, s.answers = true :: more →
        exec .flush s = .next { s with
          dx := 0, dy := 0, dw := 0, dh := 0, res := 1, cp := s.cp + 1, answers := more,
          transmissions := s.transmissions ++ [⟨s.dx, s.dy, s.dw, s.dh, s.fb, true⟩] }) ∧
      (∀ more, s.answers = false :: more →
        exec .flush s = .next { s with
          res := 0, cp := s.cp + 1, answers := more,
          transmissions := s.transmissions ++ [⟨s.dx, s.dy, s.dw, s.dh, s.fb, false⟩] }) ∧
      (s.answers = [] → ∃ ok : Bool,
        exec .flush s = .next { s with
          dx := if ok then 0 else s.dx, dy := if ok then 0 else s.dy, dw := if ok then 0 else s.dw,
          dh := if ok then 0 else s.dh, res := if ok then 1 else 0, cp := s.cp + 1, draws := s.draws + 1,
          transmissions := s.transmissions ++ [⟨s.dx, s.dy, s.dw, s.dh, s.fb, ok⟩] }))

/-- R86 (a), (b), R84: a FLUSH after VALIDATE, or after a successful FLUSH, transmits nothing and succeeds; one after
a failed FLUSH shows the host the same rectangle and the same `FB`. -/
def Obligations.FlushAfterFlushOrValidate : Prop :=
  ∀ s t u : State,
    (exec .validate s = .next t → exec .flush t = .next u →
      u.transmissions = s.transmissions ∧ u.res = 1 ∧ u.fb = s.fb) ∧
    (exec .flush s = .next t → t.res = 1 → exec .flush t = .next u →
      u.transmissions = t.transmissions ∧ u.res = 1) ∧
    (exec .flush s = .next t → t.res = 0 → exec .flush t = .next u →
      ∃ ok ok', u.transmissions = s.transmissions ++
        [⟨s.dx, s.dy, s.dw, s.dh, s.fb, ok⟩, ⟨s.dx, s.dy, s.dw, s.dh, s.fb, ok'⟩])

/-! ## The framebuffer and the sink -/

/-- R39, R38: on the display `page(y) = y >> 3`, the byte index is inside `FB`, and two pixels never share a bit; for
six pages the mask would not be the identity. -/
def Obligations.PixelsHaveBitsOfTheirOwn : Prop :=
  (∀ (s : State) (x y x' y' : Nat), x < s.w → y < s.h → x' < s.w → y' < s.h →
    pageOf s.pages y = y / 8 ∧ pageOf s.pages y < s.pages ∧ s.fbIndex x y = x + y / 8 * s.w ∧
    s.fbIndex x y < s.w * s.pages ∧
    (s.fbIndex x y = s.fbIndex x' y' → y % 8 = y' % 8 → x = x' ∧ y = y')) ∧
  pageOf 6 16 = 0

/-- R43: the three modes on every bit of a byte; bits outside the mask never change. -/
def Obligations.BlendActsOnTheMaskOnly : Prop :=
  ∀ (old m : Byte) (k : Nat), k < 8 →
    (m.getLsbD k = false → ∀ mode, (blend mode old m).getLsbD k = old.getLsbD k) ∧
    (m.getLsbD k = true → (blend .set old m).getLsbD k = true ∧ (blend .clear old m).getLsbD k = false ∧
      (blend .invert old m).getLsbD k = !old.getLsbD k)

/-- R42, R41: a sink call outside its domain, its arguments reduced `mod 256`, raises `SinkRange`; inside it only `FB`
changes. -/
def Obligations.SinkCallsFaultOutsideTheirDomain : Prop :=
  ∀ (s : State) (a b c : Int),
    (if (a % 256).toNat < s.w ∧ (b % 256).toNat < s.h then ∃ m, (SinkCall.pixel a b).run s = .ok { s with fb := m }
      else (SinkCall.pixel a b).run s = .error .sinkRange) ∧
    (if (a % 256).toNat ≤ (b % 256).toNat ∧ (b % 256).toNat < s.w ∧ (c % 256).toNat < s.h then
        ∃ m, (SinkCall.hrun a b c).run s = .ok { s with fb := m }
      else (SinkCall.hrun a b c).run s = .error .sinkRange) ∧
    (if (a % 256).toNat < s.w ∧ (b % 256).toNat ≤ (c % 256).toNat ∧ (c % 256).toNat < s.h then
        ∃ m, (SinkCall.vrun a b c).run s = .ok { s with fb := m }
      else (SinkCall.vrun a b c).run s = .error .sinkRange)

/-- R47: within its domain a run is one `SinkPixel` per pixel of it, in every mode. -/
def Obligations.RunsEqualTheirPixels : Prop :=
  ∀ s : State, s.fb.wf = true →
    (∀ l r y : Nat, l ≤ r → r < s.w → y < s.h →
      (SinkCall.hrun l r y).run s =
        runSinks ((List.range' l (r + 1 - l)).map fun x : Nat => SinkCall.pixel x y) s) ∧
    (∀ x t b : Nat, x < s.w → t ≤ b → b < s.h →
      (SinkCall.vrun x t b).run s =
        runSinks ((List.range' t (b + 1 - t)).map fun y : Nat => SinkCall.pixel x y) s)

/-- R48: with the mode fixed any two `Apply` calls commute; the framebuffer after a sequence of sink calls depends only on
how many of them cover each pixel, and not on their order. -/
def Obligations.MultiplicityDecidesThePixel : Prop :=
  (∀ (mode : DrawMode) (fb : Memory) (i j : Nat) (m n : Byte), fb.wf = true →
    applyMask mode (applyMask mode fb i m) j n = applyMask mode (applyMask mode fb j n) i m) ∧
  (∀ (s t : State) (calls : List SinkCall), s.fb.wf = true → runSinks calls s = .ok t →
    ∀ u v, u < s.w → v < s.h → t.pixelAt u v = blendBit s.mode (s.pixelAt u v) (multiplicity calls u v)) ∧
  (∀ (s : State) (calls calls' : List SinkCall), s.fb.wf = true → calls.Perm calls' →
    runSinks calls s = runSinks calls' s)

/-! ## Drawing commands, all of them -/

/-- R87, R42, R134: PIXEL, LINETO, the rectangles, the ovals, CORNER and the rounded rectangles. Where every sink call
of the command's rule is in its domain the command completes: the box is marked, the pixels are drawn as the
multiplicity says, LINETO moves the cursor, and nothing else differs, no byte but those the calls store to. Otherwise
it takes `SinkRange`. -/
def Obligations.ShapeCommandsDrawTheirCalls : Prop :=
  ∀ (s : State) (i : Instr) (calls : List SinkCall), s.fb.wf = true → shapeCalls s i = some calls →
    i.legalOperands = true →
    (calls.all (SinkCall.inDomain s) = true → ∃ t, exec i s = .next t ∧
      t = { s with dx := t.dx, dy := t.dy, dw := t.dw, dh := t.dh, curx := (shapeCursor s i).1,
                   cury := (shapeCursor s i).2, fb := t.fb, cp := s.cp + BitVec.ofNat 16 i.length } ∧
      t.dirty = (shapeMarked s i).dirty ∧
      (∀ a, a ∉ storedAddresses s calls → t.fb.read a = s.fb.read a) ∧
      ∀ u v, u < s.w → v < s.h → t.pixelAt u v = blendBit s.mode (s.pixelAt u v) (multiplicity calls u v)) ∧
    (calls.all (SinkCall.inDomain s) = false → RaisesFault (exec i s) s .sinkRange)

/-- R88: a shape of zero width or height does nothing, whatever its other operands. -/
def Obligations.ZeroSizedShapesDoNothing : Prop :=
  ∀ (s : State) (x y w h c : Byte), w = 0 ∨ h = 0 →
    exec (.framerect x y w h) s = .next { s with cp := s.cp + 5 } ∧
    exec (.paintrect x y w h) s = .next { s with cp := s.cp + 5 } ∧
    exec (.frameoval x y w h) s = .next { s with cp := s.cp + 5 } ∧
    exec (.paintoval x y w h) s = .next { s with cp := s.cp + 5 } ∧
    exec (.framerrect x y w h c) s = .next { s with cp := s.cp + 6 } ∧
    exec (.paintrrect x y w h c) s = .next { s with cp := s.cp + 6 }

/-! ## Pixels, lines and rectangles -/

/-- R89: PIXEL marks a 1×1 box and writes one bit in the current mode; off the display it takes `SinkRange`. -/
def Obligations.PixelWritesOneBit : Prop :=
  ∀ (s : State) (x y : Byte) (rest : List Byte), s.fb.wf = true →
    decode (0x30 :: x :: y :: rest) = .ok (.pixel x y) ∧
    (x.toNat < s.w → y.toNat < s.h → ∃ t, exec (.pixel x y) s = .next t ∧
      t = { s with dx := t.dx, dy := t.dy, dw := t.dw, dh := t.dh, fb := t.fb, cp := s.cp + 3 } ∧
      t.dirty = (s.markDirty x.toNat y.toNat 1 1).dirty ∧
      (∀ a, a ≠ x.toNat + y.toNat / 8 * s.w → t.fb.read a = s.fb.read a) ∧
      ∀ u v, u < s.w → v < s.h →
        t.pixelAt u v = if u = x.toNat ∧ v = y.toNat then
          (match s.mode with | .set => true | .clear => false | .invert => !s.pixelAt u v) else s.pixelAt u v) ∧
    (s.w ≤ x.toNat ∨ s.h ≤ y.toNat → RaisesFault (exec (.pixel x y) s) s .sinkRange)

/-- R90: LINETO with both endpoints on the display marks the box they span, draws inside it, covers both endpoints and
moves the cursor to the target; with an endpoint off the display it takes `SinkRange`. -/
def Obligations.LinetoDrawsToItsTarget : Prop :=
  ∀ (s : State) (x y : Byte), s.fb.wf = true →
    (s.curx.toNat < s.w → s.cury.toNat < s.h → x.toNat < s.w → y.toNat < s.h →
      ∃ t, exec (.lineto x y) s = .next t ∧
        t = { s with dx := t.dx, dy := t.dy, dw := t.dw, dh := t.dh, curx := x, cury := y, fb := t.fb,
                     cp := s.cp + 3 } ∧
        t.dirty = (s.markDirty (min s.curx.toNat x.toNat) (min s.cury.toNat y.toNat)
          (max s.curx.toNat x.toNat - min s.curx.toNat x.toNat + 1)
          (max s.cury.toNat y.toNat - min s.cury.toNat y.toNat + 1)).dirty ∧
        (∀ u v, u < s.w → v < s.h →
          (u < min s.curx.toNat x.toNat ∨ max s.curx.toNat x.toNat < u ∨
            v < min s.cury.toNat y.toNat ∨ max s.cury.toNat y.toNat < v) → t.pixelAt u v = s.pixelAt u v) ∧
        (∀ u v, (u = s.curx.toNat ∧ v = s.cury.toNat) ∨ (u = x.toNat ∧ v = y.toNat) →
          t.pixelAt u v = (match s.mode with | .set => true | .clear => false | .invert => !s.pixelAt u v))) ∧
    (s.w ≤ s.curx.toNat ∨ s.h ≤ s.cury.toNat ∨ s.w ≤ x.toNat ∨ s.h ≤ y.toNat →
      RaisesFault (exec (.lineto x y) s) s .sinkRange)

/-- R91, R92, R95: a horizontal or vertical line covers exactly the pixels between its endpoints, each once. -/
def Obligations.AxisLinesCoverTheirRun : Prop :=
  ∀ (s t : State) (x y : Byte), s.fb.wf = true → s.curx = x ∨ s.cury = y → t.fault = false →
    exec (.lineto x y) s = .next t →
    ∀ u v, u < s.w → v < s.h →
      t.pixelAt u v =
        if min s.curx.toNat x.toNat ≤ u ∧ u ≤ max s.curx.toNat x.toNat ∧
           min s.cury.toNat y.toNat ≤ v ∧ v ≤ max s.cury.toNat y.toNat then
          (match s.mode with | .set => true | .clear => false | .invert => !s.pixelAt u v)
        else s.pixelAt u v

/-- R94 (a), (b), (c): the general walk makes `max(dx, dy) + 1` calls, begins at the cursor and ends at the target,
moves each axis by at most one per call, toward the target, and covers no pixel twice. -/
def Obligations.LineWalkReachesItsTarget : Prop :=
  ∀ x0 y0 x1 y1 : Int, 0 ≤ x0 → x0 ≤ 255 → 0 ≤ y0 → y0 ≤ 255 → 0 ≤ x1 → x1 ≤ 255 → 0 ≤ y1 → y1 ≤ 255 →
    x0 ≠ x1 → y0 ≠ y1 →
    let calls := lineWalkCalls x0 y0 x1 y1
    calls.length = max (x1 - x0).natAbs (y1 - y0).natAbs + 1 ∧
    calls.head? = some (.pixel x0 y0) ∧ calls.getLast? = some (.pixel x1 y1) ∧ calls.Nodup ∧
    (∀ c ∈ calls, ∃ u v, c = .pixel u v) ∧
    ∀ (k : Nat) (u v u' v' : Int), calls[k]? = some (.pixel u v) → calls[k + 1]? = some (.pixel u' v') →
      (u' = u ∨ u' = u + (if x0 < x1 then 1 else -1)) ∧ (v' = v ∨ v' = v + (if y0 < y1 then 1 else -1))

/-- R96, R97: PAINTRECT of zero size does nothing; on the display it covers exactly its box, once; off the display it takes `SinkRange`. -/
def Obligations.PaintrectFillsItsBox : Prop :=
  ∀ (s : State) (x y w h : Byte) (rest : List Byte), s.fb.wf = true →
    decode (0x33 :: x :: y :: w :: h :: rest) = .ok (.paintrect x y w h) ∧
    (w = 0 ∨ h = 0 → exec (.paintrect x y w h) s = .next { s with cp := s.cp + 5 }) ∧
    (w ≠ 0 → h ≠ 0 → x.toNat + w.toNat ≤ s.w → y.toNat + h.toNat ≤ s.h → ∃ t, exec (.paintrect x y w h) s = .next t ∧
      t = { s with dx := t.dx, dy := t.dy, dw := t.dw, dh := t.dh, fb := t.fb, cp := s.cp + 5 } ∧
      t.dirty = (s.markBox x y w h).dirty ∧
      ∀ u v, u < s.w → v < s.h →
        t.pixelAt u v = if inBox x.toNat y.toNat w.toNat h.toNat u v then
          (match s.mode with | .set => true | .clear => false | .invert => !s.pixelAt u v) else s.pixelAt u v) ∧
    (w ≠ 0 → h ≠ 0 → s.w < x.toNat + w.toNat ∨ s.h < y.toNat + h.toNat →
      RaisesFault (exec (.paintrect x y w h) s) s .sinkRange)

/-- R98, R99: FRAMERECT of zero size does nothing; on the display it covers exactly the border of its box, once; off the
display it takes `SinkRange`. -/
def Obligations.FramerectDrawsItsBorder : Prop :=
  ∀ (s : State) (x y w h : Byte) (rest : List Byte), s.fb.wf = true →
    decode (0x32 :: x :: y :: w :: h :: rest) = .ok (.framerect x y w h) ∧
    (w = 0 ∨ h = 0 → exec (.framerect x y w h) s = .next { s with cp := s.cp + 5 }) ∧
    (w ≠ 0 → h ≠ 0 → x.toNat + w.toNat ≤ s.w → y.toNat + h.toNat ≤ s.h → ∃ t, exec (.framerect x y w h) s = .next t ∧
      t = { s with dx := t.dx, dy := t.dy, dw := t.dw, dh := t.dh, fb := t.fb, cp := s.cp + 5 } ∧
      t.dirty = (s.markBox x y w h).dirty ∧
      ∀ u v, u < s.w → v < s.h →
        t.pixelAt u v = if onBorder x.toNat y.toNat w.toNat h.toNat u v then
          (match s.mode with | .set => true | .clear => false | .invert => !s.pixelAt u v) else s.pixelAt u v) ∧
    (w ≠ 0 → h ≠ 0 → s.w < x.toNat + w.toNat ∨ s.h < y.toNat + h.toNat →
      RaisesFault (exec (.framerect x y w h) s) s .sinkRange)

/-! ## Ovals -/

/-- R105, R106, R107 (c): FRAMEOVAL and PAINTOVAL complete exactly where the rectangle lies on the display, and write
no pixel outside it. -/
def Obligations.OvalsDrawInsideTheirRectangle : Prop :=
  ∀ (s : State) (x y w h : Byte), s.fb.wf = true → w ≠ 0 → h ≠ 0 →
    (x.toNat + w.toNat ≤ s.w → y.toNat + h.toNat ≤ s.h →
      (∃ t, exec (.frameoval x y w h) s = .next t ∧
        t = { s with dx := t.dx, dy := t.dy, dw := t.dw, dh := t.dh, fb := t.fb, cp := s.cp + 5 } ∧
        t.dirty = (s.markBox x y w h).dirty ∧
        ∀ u v, u < s.w → v < s.h → inBox x.toNat y.toNat w.toNat h.toNat u v = false →
          t.pixelAt u v = s.pixelAt u v) ∧
      (∃ t, exec (.paintoval x y w h) s = .next t ∧
        t = { s with dx := t.dx, dy := t.dy, dw := t.dw, dh := t.dh, fb := t.fb, cp := s.cp + 5 } ∧
        t.dirty = (s.markBox x y w h).dirty ∧
        ∀ u v, u < s.w → v < s.h → inBox x.toNat y.toNat w.toNat h.toNat u v = false →
          t.pixelAt u v = s.pixelAt u v)) ∧
    (s.w < x.toNat + w.toNat ∨ s.h < y.toNat + h.toNat →
      RaisesFault (exec (.frameoval x y w h) s) s .sinkRange ∧
      RaisesFault (exec (.paintoval x y w h) s) s .sinkRange)

/-- R108 (a), (b): the pixels of either oval lie inside the rectangle, touch all four of its sides, and are symmetric
about its middle column and its middle row. -/
def Obligations.OvalsAreInscribedAndSymmetric : Prop :=
  ∀ (fill : Bool) (x y w h : Nat), 1 ≤ w → 1 ≤ h → x + w ≤ 256 → y + h ≤ 256 →
    let n := multiplicity (ovalCalls fill x y w h)
    (∀ u v, 1 ≤ n u v → inBox x y w h u v = true) ∧
    (∃ v, 1 ≤ n x v) ∧ (∃ v, 1 ≤ n (x + w - 1) v) ∧ (∃ u, 1 ≤ n u y) ∧ (∃ u, 1 ≤ n u (y + h - 1)) ∧
    (∀ u v, inBox x y w h u v = true →
      (1 ≤ n u v ↔ 1 ≤ n (2 * x + w - 1 - u) v) ∧ (1 ≤ n u v ↔ 1 ≤ n u (2 * y + h - 1 - v)))

/-- R108 (c), (d): PAINTOVAL covers, column by column, exactly the rows between FRAMEOVAL's topmost and bottommost
pixel of the column, and every column has one. -/
def Obligations.PaintovalFillsTheFrame : Prop :=
  ∀ (x y w h : Nat), 1 ≤ w → 1 ≤ h → x + w ≤ 256 → y + h ≤ 256 →
    let frame := multiplicity (ovalCalls false x y w h)
    let paint := multiplicity (ovalCalls true x y w h)
    (∀ u v, 1 ≤ paint u v ↔ ∃ v1 v2, v1 ≤ v ∧ v ≤ v2 ∧ 1 ≤ frame u v1 ∧ 1 ≤ frame u v2) ∧
    ∀ u, x ≤ u → u < x + w → ∃ v, 1 ≤ frame u v

/-- R94, R107, R113, R153: each walk ends by its own test within the number of iterations the model allows it, `dx + dy + 1`
for the line, `w + h` and `h` for the oval, `2 * r + 1` for the corner: more would change nothing. `w + h` is
R107 (a)'s; the other bounds are the model's own (log entry 11). -/
def Obligations.WalksEndByTheirOwnTest : Prop :=
  (∀ (x0 y0 x1 y1 : Int) (k : Nat), x0 ≠ x1 → y0 ≠ y1 →
    let dx := (x1 - x0).natAbs
    let dy := (y1 - y0).natAbs
    lineWalk dx dy (if x0 < x1 then 1 else -1) (if y0 < y1 then 1 else -1) x1 y1 (dx + dy + 1 + k) x0 y0 (dx - dy) =
      lineWalkCalls x0 y0 x1 y1) ∧
  (∀ (fill : Bool) (x y : Int) (w h k : Nat), 1 ≤ w → 1 ≤ h →
    let a : Int := w - 1
    let b : Int := h - 1
    let v := ovalSetup x y w h
    let r := ovalMain (ovalEmit fill v.y0 v.y1) (8 * a * a) (8 * b * b) (w + h + k) v
    r.1 ++ ovalTrail b (h + k) r.2 = ovalCalls fill x y w h) ∧
  (∀ (cx cy : Int) (r k : Nat) (m : Byte),
    cornerWalk cx cy m (2 * r + 1 + k) ⟨-(r : Int), 0, 2 - 2 * (r : Int)⟩ = cornerCalls cx cy r m)

/-! ## Corners and rounded rectangles -/

/-- R113 (b), (c), (e): where every selected quadrant's box lies in columns and rows 0 to 255, a corner arc covers no
pixel twice, and only pixels of those `r × r` boxes; radii 0 and 1 cover nothing, whatever the centre. What an arc
covers is `CornersFormArcs`. -/
def Obligations.CornersCoverTheirQuadrantsOnce : Prop :=
  (∀ (cx cy r : Nat) (m : Byte), cx ≤ 255 → cy ≤ 255 → quadrantsInRange cx cy r m = true → ∀ u v,
    multiplicity (cornerCalls cx cy r m) u v ≤ 1 ∧
    (1 ≤ multiplicity (cornerCalls cx cy r m) u v →
      (maskBit m 0 = true ∧ inBox (cx - r) (cy - r) r r u v = true) ∨
      (maskBit m 1 = true ∧ inBox (cx + 1) (cy - r) r r u v = true) ∨
      (maskBit m 2 = true ∧ inBox (cx + 1) (cy + 1) r r u v = true) ∨
      (maskBit m 3 = true ∧ inBox (cx - r) (cy + 1) r r u v = true))) ∧
  (∀ (cx cy : Int) (r : Nat) (m : Byte), r ≤ 1 → cornerCalls cx cy r m = [])

/-- R113 (c), (d): what a corner arc covers in a selected quadrant, for `r >= 2`. The boundary has the offsets `(r, 1)`
and `(1, r)`, a pixel in every column and every row `1..r`, and is symmetric about the diagonal. The fill covers each
column from the row beside the centre out to the largest offset the boundary has there. -/
def Obligations.CornersFormArcs : Prop :=
  ∀ (cx cy r q : Nat) (m : Byte), cx ≤ 255 → cy ≤ 255 → 2 ≤ r → quadrantsInRange cx cy r m = true → q < 4 →
    maskBit m q = true →
    let covers := fun (mask : Byte) (ex ey : Nat) =>
      1 ≤ multiplicity (cornerCalls cx cy r mask) (quadrantPixel cx cy q ex ey).1 (quadrantPixel cx cy q ex ey).2
    let edge := covers (m &&& 0x0F)
    let fill := covers (m ||| 0x10)
    edge r 1 ∧ edge 1 r ∧
    ∀ k, 1 ≤ k → k ≤ r →
      (∃ j, 1 ≤ j ∧ j ≤ r ∧ edge k j) ∧ (∃ j, 1 ≤ j ∧ j ≤ r ∧ edge j k) ∧
      ∀ j, 1 ≤ j → j ≤ r → (edge k j ↔ edge j k) ∧ (fill k j ↔ ∃ e, j ≤ e ∧ e ≤ r ∧ edge k e)

/-- R114: CORNER with a legal mask completes when every selected quadrant's box lies on the display, and for radii 0
and 1 always; it marks one `r × r` box per selected quadrant and draws nothing outside them. -/
def Obligations.CornerDrawsItsQuadrants : Prop :=
  ∀ (s : State) (cx cy r m : Byte), s.fb.wf = true → m.toNat < 32 →
    (r.toNat < 2 ∨ s.cornerOnDisplay cx.toNat cy.toNat r.toNat m = true) →
    ∃ t, exec (.corner cx cy r m) s = .next t ∧
      t = { s with dx := t.dx, dy := t.dy, dw := t.dw, dh := t.dh, fb := t.fb, cp := s.cp + 5 } ∧
      t.dirty = (s.markBoxes (((if maskBit m 0 then [(cx - r, cy - r, r, r)] else []) ++
        (if maskBit m 1 then [(cx + 1, cy - r, r, r)] else []) ++
        (if maskBit m 2 then [(cx + 1, cy + 1, r, r)] else []) ++
        (if maskBit m 3 then [(cx - r, cy + 1, r, r)] else [])) : List TrackedBox)).dirty ∧
      ∀ u v, u < s.w → v < s.h → t.pixelAt u v ≠ s.pixelAt u v →
        (maskBit m 0 = true ∧ inBox (cx.toNat - r.toNat) (cy.toNat - r.toNat) r.toNat r.toNat u v = true) ∨
        (maskBit m 1 = true ∧ inBox (cx.toNat + 1) (cy.toNat - r.toNat) r.toNat r.toNat u v = true) ∨
        (maskBit m 2 = true ∧ inBox (cx.toNat + 1) (cy.toNat + 1) r.toNat r.toNat u v = true) ∨
        (maskBit m 3 = true ∧ inBox (cx.toNat - r.toNat) (cy.toNat + 1) r.toNat r.toNat u v = true)

/-- R115, R117, R118: the radius is clamped to half the shorter side, rounded down, so that radii with the same clamp
give the same outcome, as 100 and 5 on a 20×10 rectangle do; with a clamp of 0 (`corner = 0`, or a side of 1) the
rounded rectangles are the plain ones, but for `CP`. -/
def Obligations.RadiusIsClamped : Prop :=
  (∀ (s : State) (x y w h c c' : Byte),
    min c.toNat (min w.toNat h.toNat / 2) = min c'.toNat (min w.toNat h.toNat / 2) →
    exec (.framerrect x y w h c) s = exec (.framerrect x y w h c') s ∧
    exec (.paintrrect x y w h c) s = exec (.paintrrect x y w h c') s) ∧
  (∀ (s : State) (x y : Byte),
    exec (.framerrect x y 20 10 100) s = exec (.framerrect x y 20 10 5) s ∧
    exec (.paintrrect x y 20 10 100) s = exec (.paintrrect x y 20 10 5) s) ∧
  (∀ (s t : State) (x y w h c : Byte), c = 0 ∨ w = 1 ∨ h = 1 →
    (exec (.framerect x y w h) s = .next t → t.fault = false →
      exec (.framerrect x y w h c) s = .next { t with cp := s.cp + 6 }) ∧
    (exec (.paintrect x y w h) s = .next t → t.fault = false →
      exec (.paintrrect x y w h c) s = .next { t with cp := s.cp + 6 }))

/-- R117, R118, R119 (b): FRAMERRECT and PAINTRRECT complete where the rectangle lies on the display, mark it dirty and
write no pixel outside it. -/
def Obligations.RoundRectsDrawInsideTheirRectangle : Prop :=
  ∀ (s : State) (x y w h c : Byte), s.fb.wf = true → w ≠ 0 → h ≠ 0 → x.toNat + w.toNat ≤ s.w →
    y.toNat + h.toNat ≤ s.h →
    (∃ t, exec (.framerrect x y w h c) s = .next t ∧
      t = { s with dx := t.dx, dy := t.dy, dw := t.dw, dh := t.dh, fb := t.fb, cp := s.cp + 6 } ∧
      t.dirty = (s.markBox x y w h).dirty ∧
      ∀ u v, u < s.w → v < s.h → inBox x.toNat y.toNat w.toNat h.toNat u v = false →
        t.pixelAt u v = s.pixelAt u v) ∧
    (∃ t, exec (.paintrrect x y w h c) s = .next t ∧
      t = { s with dx := t.dx, dy := t.dy, dw := t.dw, dh := t.dh, fb := t.fb, cp := s.cp + 6 } ∧
      t.dirty = (s.markBox x y w h).dirty ∧
      ∀ u v, u < s.w → v < s.h → inBox x.toNat y.toNat w.toNat h.toNat u v = false →
        t.pixelAt u v = s.pixelAt u v)

/-- R116, R113, R119 (a), (b), (c), for every size: no pixel of a rounded rectangle is written twice, and none outside
the rectangle. Each corner box holds the CORNER arc of the clamped radius about its centre; elsewhere the frame has
the straight edges and the fill has every pixel. The framed pixels are among the painted ones, and each painted row
runs from its leftmost to its rightmost framed pixel, without holes. -/
def Obligations.RoundRectsCoverOnce : Prop :=
  ∀ (x y w h corner u v : Nat), 1 ≤ w → 1 ≤ h → x + w ≤ 256 → y + h ≤ 256 →
    let c := clampRadius w h corner
    let cover := fun (fill : Bool) => multiplicity (roundRectCalls fill x y w h c)
    (∀ fill : Bool,
      let arc := fun (cx cy : Int) (q : Byte) => multiplicity (cornerCalls cx cy c ((if fill then 0x10 else 0) ||| q)) u v
      cover fill u v ≤ 1 ∧ (1 ≤ cover fill u v → inBox x y w h u v = true) ∧
      (u < x + c → v < y + c → cover fill u v = arc (x + c) (y + c) 1) ∧
      (x + w ≤ u + c → v < y + c → cover fill u v = arc (x + w - 1 - c) (y + c) 2) ∧
      (x + w ≤ u + c → y + h ≤ v + c → cover fill u v = arc (x + w - 1 - c) (y + h - 1 - c) 4) ∧
      (u < x + c → y + h ≤ v + c → cover fill u v = arc (x + c) (y + h - 1 - c) 8) ∧
      ((x + c ≤ u ∧ u + c < x + w) ∨ (y + c ≤ v ∧ v + c < y + h) →
        (1 ≤ cover fill u v ↔ if fill then inBox x y w h u v = true else onBorder x y w h u v = true))) ∧
    (1 ≤ cover false u v → 1 ≤ cover true u v) ∧
    (1 ≤ cover true u v ↔ ∃ u1 u2, u1 ≤ u ∧ u ≤ u2 ∧ 1 ≤ cover false u1 v ∧ 1 ≤ cover false u2 v)

/-! ## Text -/

/-- R50, R52, R53: the font reader. Bit `a` of the blob is bit `7 - (a mod 8)` of byte `a >> 3`. The glyph lookup: without
a font none, whatever `FM` holds; else the header's range, then the 7-byte entry with its low byte first and its signed
offsets. A byte the blob or the table lacks is `FontRange`. -/
def Obligations.FontReadsFollowTheTables : Prop :=
  ∀ (s : State) (c : Byte) (a : Nat),
    (∀ b, s.bm.read (a / 8) = some b → s.bitmapBit a = .ok (b.getLsbD (7 - a % 8))) ∧
    (s.bm.read (a / 8) = none → s.bitmapBit a = .error .fontRange) ∧
    (s.fonten = false → s.glyph c = .ok none) ∧
    (s.fonten = true → s.fm.read 0 = none ∨ s.fm.read 1 = none → s.glyph c = .error .fontRange) ∧
    (∀ first last : Byte, s.fonten = true → s.fm.read 0 = some first → s.fm.read 1 = some last →
      (c.toNat < first.toNat ∨ last.toNat < c.toNat → s.glyph c = .ok none) ∧
      (first.toNat ≤ c.toNat → c.toNat ≤ last.toNat →
        let e := 4 + 7 * (c.toNat - first.toNat)
        (∀ b : Nat → Byte, (∀ k, k < 7 → s.fm.read (e + k) = some (b k)) →
          s.glyph c = .ok (some ⟨(b 0).toNat + 256 * (b 1).toNat, (b 2).toNat, (b 3).toNat, b 4,
            (b 5).toInt, (b 6).toInt⟩)) ∧
        (∀ k, k < 7 → s.fm.read (e + k) = none → s.glyph c = .error .fontRange)))

/-- R121, R122, R123: WIDTHC writes the glyph's advance, or 0, to `RES`, WIDTHS the exact sum of the codes' widths, which
fits for at most 255 codes; neither changes anything else. A lookup that leaves `FM` takes `FontRange`. -/
def Obligations.WidthsReportTheAdvances : Prop :=
  ∀ (s : State) (c : Byte) (codes : List Byte),
    (s.glyph c = .ok none → exec (.widthc c) s = .next { s with res := 0, cp := s.cp + 2 }) ∧
    (∀ g, s.glyph c = .ok (some g) →
      exec (.widthc c) s = .next { s with res := g.xAdvance.setWidth 16, cp := s.cp + 2 }) ∧
    (s.glyph c = .error .fontRange → RaisesFault (exec (.widthc c) s) s .fontRange) ∧
    (∀ width : Byte → Nat,
      (∀ c ∈ codes, s.glyph c = .ok none ∧ width c = 0 ∨
        ∃ g, s.glyph c = .ok (some g) ∧ width c = g.xAdvance.toNat) →
      exec (.widths codes) s = .next { s with
        res := BitVec.ofNat 16 (codes.map width).sum, cp := s.cp + BitVec.ofNat 16 (2 + codes.length) } ∧
      (codes.length ≤ 255 → (codes.map width).sum ≤ 65025)) ∧
    ((∃ c ∈ codes, s.glyph c = .error .fontRange) → RaisesFault (exec (.widths codes) s) s .fontRange)

/-- R124, R136: DRAWCHAR. Without a glyph nothing changes. A glyph that fits has its render box marked and one pixel drawn
per set bit in the current mode, and moves `CURX` by the advance, `mod 256`; `CURY` and everything else stays, and
every byte but those stored to. A lookup that leaves `FM` is `FontRange`. Where the glyph does not fit, the first cell in
row-major order that offends decides the code: `FontRange` where its bit lies outside `BM`, `SinkRange` where it is a set
bit off the display (`State.cellFault`). -/
def Obligations.DrawcharBlitsTheGlyph : Prop :=
  ∀ (s : State) (c : Byte), s.fb.wf = true →
    (s.glyph c = .ok none → exec (.drawchar c) s = .next { s with cp := s.cp + 2 }) ∧
    (s.glyph c = .error .fontRange → RaisesFault (exec (.drawchar c) s) s .fontRange) ∧
    ∀ g, s.glyph c = .ok (some g) →
      (s.glyphFits g = true → ∃ t, exec (.drawchar c) s = .next t ∧
        t = { s with dx := t.dx, dy := t.dy, dw := t.dw, dh := t.dh, curx := s.curx + g.xAdvance, fb := t.fb,
                     cp := s.cp + 2 } ∧
        t.dirty = (s.markDirty ((s.curx.toNat + g.xOffset) % 256) ((s.cury.toNat + g.yOffset) % 256) g.width
          g.height).dirty ∧
        (∀ a, a ∉ storedAddresses s (s.glyphPixels g) → t.fb.read a = s.fb.read a) ∧
        ∀ u v, u < s.w → v < s.h →
          t.pixelAt u v = blendBit s.mode (s.pixelAt u v) (multiplicity (s.glyphPixels g) u v)) ∧
      (s.glyphFits g = false → ∃ k code, k < g.width * g.height ∧ s.cellFault g k = some code ∧
        (∀ j, j < k → s.cellFault g j = none) ∧ RaisesFault (exec (.drawchar c) s) s code)

/-- R125: DRAWSTR is DRAWCHAR for every code in sequence, in every register and every byte of `FB`, but for `CP`; where
a character faults, it faults with that code. -/
def Obligations.DrawstrIsItsCharacters : Prop :=
  ∀ (s : State) (codes : List Byte), s.fault = false →
    ∃ t, drawEach codes s = .next t ∧
      (t.fault = false →
        exec (.drawstr codes) s = .next { t with cp := s.cp + BitVec.ofNat 16 (2 + codes.length) }) ∧
      (t.fault = true →
        ∃ u, exec (.drawstr codes) s = .next u ∧ u.fault = true ∧ u.fcode = t.fcode ∧ u.cp = s.cp)

/-- R125, R150 (d): DRAWSTR completes when every glyph fits where its turn comes; only the cursor's x, the dirty
rectangle, `CP` and the bytes the set bits name differ. -/
def Obligations.DrawstrCompletesWhereItsGlyphsFit : Prop :=
  ∀ (s : State) (codes : List Byte), s.textFits codes = true → ∃ t, exec (.drawstr codes) s = .next t ∧
    t = { s with dx := t.dx, dy := t.dy, dw := t.dw, dh := t.dh, curx := t.curx, fb := t.fb,
                 cp := s.cp + BitVec.ofNat 16 (2 + codes.length) } ∧
    ∀ a, a ∉ storedAddresses s (s.stringPixels codes) → t.fb.read a = s.fb.read a

/-- R126 (b): `WIDTHS` of a string is, `mod 256`, what `DRAWSTR` of it moves `CURX` by. -/
def Obligations.StringWidthIsTheCursorsMove : Prop :=
  ∀ (s t u : State) (codes : List Byte), codes.length ≤ 255 → exec (.widths codes) s = .next t → t.fault = false →
    exec (.drawstr codes) s = .next u → u.fault = false → u.curx = s.curx + t.res.setWidth 8

/-! ## The whole machine -/

/-- R24 to R28, R41, R43: which commands write which state. A command that raises no fault leaves every register, the
framebuffer and the host's side as they were unless it is named here. -/
def Obligations.OnlyTheNamedCommandsWrite : Prop :=
  ∀ (i : Instr) (s t : State), exec i s = .next t → t.fault = false →
    (t.mode ≠ s.mode → ∃ m, i = .setmode m) ∧
    (t.fonten ≠ s.fonten → ∃ en, i = .setfont en) ∧
    (t.res ≠ s.res → i = .flush ∨ (∃ c, i = .widthc c) ∨ ∃ cs, i = .widths cs) ∧
    (t.curx ≠ s.curx → (∃ x y, i = .moveto x y) ∨ (∃ x y, i = .lineto x y) ∨ (∃ c, i = .drawchar c) ∨
      ∃ cs, i = .drawstr cs) ∧
    (t.cury ≠ s.cury → (∃ x y, i = .moveto x y) ∨ ∃ x y, i = .lineto x y) ∧
    (t.fb ≠ s.fb → i = .clear ∨ (shapeCalls s i).isSome = true ∨ (∃ c, i = .drawchar c) ∨ ∃ cs, i = .drawstr cs) ∧
    (t.dirty ≠ s.dirty → i = .clear ∨ i = .invalidate ∨ i = .validate ∨ i = .flush ∨
      (∃ l u w h, i = .markdirty l u w h) ∨ (shapeCalls s i).isSome = true ∨ (∃ c, i = .drawchar c) ∨
      ∃ cs, i = .drawstr cs) ∧
    (¬SameSurroundings s t → i = .flush) ∧ t.fault = s.fault ∧ t.fcode = s.fcode

/-- R80: under the premise of R78 (plain boxes) every pixel a command modifies lies in the tracked rectangle it leaves,
which is plain again. FLUSH and VALIDATE modify none; DRAWSTR is its characters (`DrawstrIsItsCharacters`). -/
def Obligations.TrackerCoversEveryModifiedPixel : Prop :=
  ∀ (i : Instr) (s t : State), s.fb.wf = true → s.dirtyPlain = true →
    (∀ b ∈ declaredBoxes s i, b.2.2.1 = 0 ∨ b.2.2.2 = 0 ∨ plainTrackedBox b = true) →
    (∀ codes, i ≠ .drawstr codes) → exec i s = .next t → t.fault = false →
    t.dirtyPlain = true ∧
    ∀ u v, u < s.w → v < s.h → t.pixelAt u v ≠ s.pixelAt u v →
      inBox t.dx.toNat t.dy.toNat t.dw.toNat t.dh.toNat u v = true

/-- R86 (c), R76: what a command draws, and the cursor, mode and font it leaves, do not depend on the dirty rectangle,
on `RES` or on the host's side. -/
def Obligations.DrawingIgnoresTheTracker : Prop :=
  ∀ (i : Instr) (s s' t t' : State),
    s' = { s with dx := s'.dx, dy := s'.dy, dw := s'.dw, dh := s'.dh, res := s'.res, answers := s'.answers,
                  transmissions := s'.transmissions, draws := s'.draws } →
    t.fault = false → exec i s = .next t → exec i s' = .next t' →
    t'.fault = false ∧ t'.fb = t.fb ∧ t'.curx = t.curx ∧ t'.cury = t.cury ∧ t'.mode = t.mode ∧
    t'.fonten = t.fonten ∧ t'.cp = t.cp
end

