-- ==== Sys2Proof/Laws/Memory.lean ====
section
/-! SUPPORT. The laws of a byte space: read after write, the canonical form is kept, canonical spaces with the same
bytes are the same data. -/

namespace Sys2Proof.Machine

theorem cellsWf_cons (d : Nat → Byte) (c : Host.Cell) (rest : List Host.Cell) :
    cellsWf d (c :: rest) = true ↔ c.2 ≠ d c.1 ∧ (∀ x ∈ rest, c.1 < x.1) ∧ cellsWf d rest = true := by
  simp [cellsWf, and_assoc]

/-- Below every listed address nothing is listed. -/
theorem cellsRead_below (dflt : Byte) (a : Nat) (cells : List Host.Cell) (h : ∀ x ∈ cells, a < x.1) :
    cellsRead dflt a cells = dflt := by
  induction cells with
  | nil => rfl
  | cons c rest ih =>
    have hc := h c (by simp)
    simp [cellsRead, show a ≠ c.1 by omega, ih fun x hx => h x (by simp [hx])]

theorem cellsRead_cellsWrite_other (d dflt : Byte) (a a' : Nat) (b : Byte) (cells : List Host.Cell) (h : a' ≠ a) :
    cellsRead d a' (cellsWrite dflt a b cells) = cellsRead d a' cells := by
  induction cells with
  | nil => by_cases hb : b = dflt <;> simp [cellsWrite, cellsRead, hb, h]
  | cons c rest ih =>
    unfold cellsWrite
    split
    · split <;> simp [cellsRead, h]
    · split
      · split <;> simp_all [cellsRead]
      · simp [cellsRead, ih]

theorem cellsRead_cellsWrite_same (d : Nat → Byte) (a : Nat) (b : Byte) (cells : List Host.Cell)
    (h : cellsWf d cells = true) : cellsRead (d a) a (cellsWrite (d a) a b cells) = b := by
  induction cells with
  | nil => by_cases hb : b = d a <;> simp [cellsWrite, cellsRead, hb]
  | cons c rest ih =>
    obtain ⟨-, hlt, hrest⟩ := (cellsWf_cons d c rest).mp h
    unfold cellsWrite
    split
    · rename_i hac
      split
      · rename_i hb
        rw [hb]
        refine cellsRead_below _ _ _ fun x hx => ?_
        rcases List.mem_cons.mp hx with rfl | hx
        · exact hac
        · exact Nat.lt_trans hac (hlt x hx)
      · simp [cellsRead]
    · split
      · rename_i hac
        split
        · rename_i hb
          rw [hb]
          exact cellsRead_below _ _ _ fun x hx => hac ▸ hlt x hx
        · simp [cellsRead]
      · rename_i hac
        simp [cellsRead, hac, ih hrest]

/-- A write lists nothing but the old entries and the address written. -/
theorem mem_cellsWrite (dflt : Byte) (a : Nat) (b : Byte) (cells : List Host.Cell) (x : Host.Cell)
    (h : x ∈ cellsWrite dflt a b cells) : x ∈ cells ∨ (x.1 = a ∧ x.2 = b ∧ b ≠ dflt) := by
  induction cells with
  | nil => by_cases hb : b = dflt <;> simp_all [cellsWrite]
  | cons c rest ih =>
    unfold cellsWrite at h
    split at h
    · split at h
      · exact .inl h
      · rcases List.mem_cons.mp h with rfl | h
        · exact .inr ⟨rfl, rfl, ‹_›⟩
        · exact .inl h
    · split at h
      · split at h
        · exact .inl (List.mem_cons_of_mem _ h)
        · rcases List.mem_cons.mp h with rfl | h
          · exact .inr ⟨rfl, rfl, ‹_›⟩
          · exact .inl (List.mem_cons_of_mem _ h)
      · rcases List.mem_cons.mp h with rfl | h
        · exact .inl (by simp)
        · exact (ih h).imp_left (List.mem_cons_of_mem _)

theorem cellsWf_cellsWrite (d : Nat → Byte) (a : Nat) (b : Byte) (cells : List Host.Cell)
    (h : cellsWf d cells = true) : cellsWf d (cellsWrite (d a) a b cells) = true := by
  induction cells with
  | nil => by_cases hb : b = d a <;> simp [cellsWrite, cellsWf, hb]
  | cons c rest ih =>
    obtain ⟨hne, hlt, hrest⟩ := (cellsWf_cons d c rest).mp h
    unfold cellsWrite
    split
    · rename_i hac
      split
      · exact h
      · rename_i hb
        refine (cellsWf_cons d _ _).mpr ⟨hb, fun x hx => ?_, h⟩
        rcases List.mem_cons.mp hx with rfl | hx
        · exact hac
        · exact Nat.lt_trans hac (hlt x hx)
    · split
      · rename_i hac
        split
        · exact hrest
        · rename_i hb
          exact (cellsWf_cons d _ _).mpr ⟨hb, fun x hx => hac ▸ hlt x hx, hrest⟩
      · refine (cellsWf_cons d _ _).mpr ⟨hne, fun x hx => ?_, ih hrest⟩
        rcases mem_cellsWrite _ _ _ _ _ hx with hx | ⟨hx, -, -⟩
        · exact hlt x hx
        · omega

/-- Canonical spaces that read the same are the same list. -/
theorem cells_ext (d : Nat → Byte) (xs ys : List Host.Cell) (hx : cellsWf d xs = true) (hy : cellsWf d ys = true)
    (h : ∀ a, cellsRead (d a) a xs = cellsRead (d a) a ys) : xs = ys := by
  induction xs generalizing ys with
  | nil =>
    cases ys with
    | nil => rfl
    | cons y ys =>
      obtain ⟨hne, -, -⟩ := (cellsWf_cons d y ys).mp hy
      have := h y.1
      simp [cellsRead] at this
      exact absurd this.symm hne
  | cons x xs ih =>
    obtain ⟨hxne, hxlt, hxs⟩ := (cellsWf_cons d x xs).mp hx
    cases ys with
    | nil =>
      have := h x.1
      simp [cellsRead] at this
      exact absurd this hxne
    | cons y ys =>
      obtain ⟨hyne, hylt, hys⟩ := (cellsWf_cons d y ys).mp hy
      have hxy : x.1 = y.1 := by
        rcases Nat.lt_trichotomy x.1 y.1 with hlt | heq | hlt
        · have hr := h x.1
          rw [cellsRead_below (d x.1) x.1 (y :: ys) (by
            intro z hz
            rcases List.mem_cons.mp hz with rfl | hz
            · exact hlt
            · exact Nat.lt_trans hlt (hylt z hz))] at hr
          simp [cellsRead] at hr
          exact absurd hr hxne
        · exact heq
        · have hr := h y.1
          rw [cellsRead_below (d y.1) y.1 (x :: xs) (by
            intro z hz
            rcases List.mem_cons.mp hz with rfl | hz
            · exact hlt
            · exact Nat.lt_trans hlt (hxlt z hz))] at hr
          simp [cellsRead] at hr
          exact absurd hr.symm hyne
      have hval : x.2 = y.2 := by
        have hr := h x.1
        simpa [cellsRead, hxy] using hr
      have hrest : xs = ys := ih ys hxs hys fun a => by
        have hr := h a
        by_cases ha : a = x.1
        · subst ha
          rw [cellsRead_below _ _ xs hxlt, cellsRead_below _ _ ys fun z hz => hxy ▸ hylt z hz]
        · simpa [cellsRead, ha, hxy ▸ ha] using hr
      rw [hrest, Prod.ext hxy hval]

/-! ## The framebuffer -/

@[simp] theorem Memory.write_fill (m : Memory) (a : Nat) (b : Byte) : (m.write a b).fill = m.fill := rfl

/-- What a write lets one read: the byte written at its address, the old byte elsewhere. -/
theorem Memory.read_write (m : Memory) (a a' : Nat) (b : Byte) (h : m.wf = true) :
    (m.write a b).read a' = if a' = a then b else m.read a' := by
  split
  · rename_i heq
    subst heq
    exact cellsRead_cellsWrite_same m.fill.byteAt a' b m.cells h
  · rename_i hne
    exact cellsRead_cellsWrite_other _ _ a a' b m.cells hne

theorem Memory.read_write_other (m : Memory) (a a' : Nat) (b : Byte) (h : a' ≠ a) :
    (m.write a b).read a' = m.read a' :=
  cellsRead_cellsWrite_other _ _ a a' b m.cells h

theorem Memory.wf_write (m : Memory) (a : Nat) (b : Byte) (h : m.wf = true) : (m.write a b).wf = true :=
  cellsWf_cellsWrite m.fill.byteAt a b m.cells h

theorem Memory.mem_write (m : Memory) (a : Nat) (b : Byte) (c : Host.Cell) (h : c ∈ (m.write a b).cells) :
    c ∈ m.cells ∨ c.1 = a :=
  (mem_cellsWrite _ a b m.cells c h).imp_right And.left

/-- Canonical framebuffers over the same fill that read the same are equal data. -/
theorem Memory.ext_of_wf (m n : Memory) (hm : m.wf = true) (hn : n.wf = true) (hf : m.fill = n.fill)
    (h : ∀ a, m.read a = n.read a) : m = n := by
  obtain ⟨f, xs⟩ := m
  obtain ⟨g, ys⟩ := n
  obtain rfl : f = g := hf
  congr
  exact cells_ext f.byteAt xs ys hm hn h

/-- The framebuffer of CLEAR and of reset lists nothing. -/
@[simp] theorem Memory.wf_empty (f : Fill) : (Memory.mk f []).wf = true := rfl

@[simp] theorem Memory.read_empty (f : Fill) (a : Nat) : (Memory.mk f []).read a = f.byteAt a := rfl

/-! ## The read-only arrays -/

theorem cellsWf_cellsPlace (a : Nat) (bytes : List Byte) (cells : List Host.Cell)
    (h : cellsWf (fun _ => 0) cells = true) : cellsWf (fun _ => 0) (cellsPlace a bytes cells) = true := by
  induction bytes generalizing a cells with
  | nil => exact h
  | cons b bs ih => exact ih _ _ (cellsWf_cellsWrite (fun _ => 0) a b cells h)

theorem cellsRead_cellsPlace (a a' : Nat) (bytes : List Byte) (cells : List Host.Cell)
    (h : cellsWf (fun _ => 0) cells = true) :
    cellsRead 0 a' (cellsPlace a bytes cells) =
      if a ≤ a' then bytes.getD (a' - a) (cellsRead 0 a' cells) else cellsRead 0 a' cells := by
  induction bytes generalizing a cells with
  | nil => simp [cellsPlace]
  | cons b bs ih =>
    rw [cellsPlace, ih _ _ (cellsWf_cellsWrite (fun _ => 0) a b cells h)]
    rcases Nat.lt_trichotomy a a' with hlt | rfl | hgt
    · rw [if_pos (by omega), if_pos (by omega), cellsRead_cellsWrite_other _ _ _ _ _ _ (by omega),
        show a' - a = (a' - (a + 1)) + 1 by omega]
      simp
    · rw [if_neg (by omega), if_pos (by omega), Nat.sub_self]
      exact cellsRead_cellsWrite_same (fun _ => 0) a b cells h
    · rw [if_neg (by omega), if_neg (by omega), cellsRead_cellsWrite_other _ _ _ _ _ _ (by omega)]

/-- An array built from bytes holds exactly them. -/
theorem Rom.read_ofBytes (bytes : List Byte) (a : Nat) : (Rom.ofBytes bytes).read a = bytes[a]? := by
  unfold Rom.read Rom.ofBytes
  by_cases h : a < bytes.length
  · rw [if_pos h, cellsRead_cellsPlace 0 a bytes [] rfl]
    simp [h]
  · simp [h]

end Sys2Proof.Machine
end

