-- ==== Sys2Proof/Laws/State.lean ====
section
/-! SUPPORT. One lemma per field per register update, true by rfl, so that no proof unfolds a record update; and the
same for the derived sizes. -/

namespace Sys2Proof.Machine

variable (s : State)

/-! ## setCursor -/

@[simp] theorem State.setCursor_width (x y : Byte) : (s.setCursor x y).width = s.width := rfl
@[simp] theorem State.setCursor_height (x y : Byte) : (s.setCursor x y).height = s.height := rfl
@[simp] theorem State.setCursor_curx (x y : Byte) : (s.setCursor x y).curx = x := rfl
@[simp] theorem State.setCursor_cury (x y : Byte) : (s.setCursor x y).cury = y := rfl
@[simp] theorem State.setCursor_dx (x y : Byte) : (s.setCursor x y).dx = s.dx := rfl
@[simp] theorem State.setCursor_dy (x y : Byte) : (s.setCursor x y).dy = s.dy := rfl
@[simp] theorem State.setCursor_dw (x y : Byte) : (s.setCursor x y).dw = s.dw := rfl
@[simp] theorem State.setCursor_dh (x y : Byte) : (s.setCursor x y).dh = s.dh := rfl
@[simp] theorem State.setCursor_mode (x y : Byte) : (s.setCursor x y).mode = s.mode := rfl
@[simp] theorem State.setCursor_fonten (x y : Byte) : (s.setCursor x y).fonten = s.fonten := rfl
@[simp] theorem State.setCursor_res (x y : Byte) : (s.setCursor x y).res = s.res := rfl
@[simp] theorem State.setCursor_fault (x y : Byte) : (s.setCursor x y).fault = s.fault := rfl
@[simp] theorem State.setCursor_fcode (x y : Byte) : (s.setCursor x y).fcode = s.fcode := rfl
@[simp] theorem State.setCursor_cp (x y : Byte) : (s.setCursor x y).cp = s.cp := rfl
@[simp] theorem State.setCursor_fb (x y : Byte) : (s.setCursor x y).fb = s.fb := rfl
@[simp] theorem State.setCursor_fm (x y : Byte) : (s.setCursor x y).fm = s.fm := rfl
@[simp] theorem State.setCursor_bm (x y : Byte) : (s.setCursor x y).bm = s.bm := rfl
@[simp] theorem State.setCursor_cs (x y : Byte) : (s.setCursor x y).cs = s.cs := rfl
@[simp] theorem State.setCursor_answers (x y : Byte) : (s.setCursor x y).answers = s.answers := rfl
@[simp] theorem State.setCursor_transmissions (x y : Byte) : (s.setCursor x y).transmissions = s.transmissions := rfl
@[simp] theorem State.setCursor_draws (x y : Byte) : (s.setCursor x y).draws = s.draws := rfl
@[simp] theorem State.setCursor_w' (x y : Byte) : (s.setCursor x y).w = s.w := rfl
@[simp] theorem State.setCursor_h' (x y : Byte) : (s.setCursor x y).h = s.h := rfl
@[simp] theorem State.setCursor_pages' (x y : Byte) : (s.setCursor x y).pages = s.pages := rfl
@[simp] theorem State.setCursor_fbSize' (x y : Byte) : (s.setCursor x y).fbSize = s.fbSize := rfl

/-! ## setDirty -/

@[simp] theorem State.setDirty_width (x y w h : Byte) : (s.setDirty x y w h).width = s.width := rfl
@[simp] theorem State.setDirty_height (x y w h : Byte) : (s.setDirty x y w h).height = s.height := rfl
@[simp] theorem State.setDirty_curx (x y w h : Byte) : (s.setDirty x y w h).curx = s.curx := rfl
@[simp] theorem State.setDirty_cury (x y w h : Byte) : (s.setDirty x y w h).cury = s.cury := rfl
@[simp] theorem State.setDirty_dx (x y w h : Byte) : (s.setDirty x y w h).dx = x := rfl
@[simp] theorem State.setDirty_dy (x y w h : Byte) : (s.setDirty x y w h).dy = y := rfl
@[simp] theorem State.setDirty_dw (x y w h : Byte) : (s.setDirty x y w h).dw = w := rfl
@[simp] theorem State.setDirty_dh (x y w h : Byte) : (s.setDirty x y w h).dh = h := rfl
@[simp] theorem State.setDirty_mode (x y w h : Byte) : (s.setDirty x y w h).mode = s.mode := rfl
@[simp] theorem State.setDirty_fonten (x y w h : Byte) : (s.setDirty x y w h).fonten = s.fonten := rfl
@[simp] theorem State.setDirty_res (x y w h : Byte) : (s.setDirty x y w h).res = s.res := rfl
@[simp] theorem State.setDirty_fault (x y w h : Byte) : (s.setDirty x y w h).fault = s.fault := rfl
@[simp] theorem State.setDirty_fcode (x y w h : Byte) : (s.setDirty x y w h).fcode = s.fcode := rfl
@[simp] theorem State.setDirty_cp (x y w h : Byte) : (s.setDirty x y w h).cp = s.cp := rfl
@[simp] theorem State.setDirty_fb (x y w h : Byte) : (s.setDirty x y w h).fb = s.fb := rfl
@[simp] theorem State.setDirty_fm (x y w h : Byte) : (s.setDirty x y w h).fm = s.fm := rfl
@[simp] theorem State.setDirty_bm (x y w h : Byte) : (s.setDirty x y w h).bm = s.bm := rfl
@[simp] theorem State.setDirty_cs (x y w h : Byte) : (s.setDirty x y w h).cs = s.cs := rfl
@[simp] theorem State.setDirty_answers (x y w h : Byte) : (s.setDirty x y w h).answers = s.answers := rfl
@[simp] theorem State.setDirty_transmissions (x y w h : Byte) : (s.setDirty x y w h).transmissions = s.transmissions := rfl
@[simp] theorem State.setDirty_draws (x y w h : Byte) : (s.setDirty x y w h).draws = s.draws := rfl
@[simp] theorem State.setDirty_w' (x y w h : Byte) : (s.setDirty x y w h).w = s.w := rfl
@[simp] theorem State.setDirty_h' (x y w h : Byte) : (s.setDirty x y w h).h = s.h := rfl
@[simp] theorem State.setDirty_pages' (x y w h : Byte) : (s.setDirty x y w h).pages = s.pages := rfl
@[simp] theorem State.setDirty_fbSize' (x y w h : Byte) : (s.setDirty x y w h).fbSize = s.fbSize := rfl

/-! ## setMode -/

@[simp] theorem State.setMode_width (m : DrawMode) : (s.setMode m).width = s.width := rfl
@[simp] theorem State.setMode_height (m : DrawMode) : (s.setMode m).height = s.height := rfl
@[simp] theorem State.setMode_curx (m : DrawMode) : (s.setMode m).curx = s.curx := rfl
@[simp] theorem State.setMode_cury (m : DrawMode) : (s.setMode m).cury = s.cury := rfl
@[simp] theorem State.setMode_dx (m : DrawMode) : (s.setMode m).dx = s.dx := rfl
@[simp] theorem State.setMode_dy (m : DrawMode) : (s.setMode m).dy = s.dy := rfl
@[simp] theorem State.setMode_dw (m : DrawMode) : (s.setMode m).dw = s.dw := rfl
@[simp] theorem State.setMode_dh (m : DrawMode) : (s.setMode m).dh = s.dh := rfl
@[simp] theorem State.setMode_mode (m : DrawMode) : (s.setMode m).mode = m := rfl
@[simp] theorem State.setMode_fonten (m : DrawMode) : (s.setMode m).fonten = s.fonten := rfl
@[simp] theorem State.setMode_res (m : DrawMode) : (s.setMode m).res = s.res := rfl
@[simp] theorem State.setMode_fault (m : DrawMode) : (s.setMode m).fault = s.fault := rfl
@[simp] theorem State.setMode_fcode (m : DrawMode) : (s.setMode m).fcode = s.fcode := rfl
@[simp] theorem State.setMode_cp (m : DrawMode) : (s.setMode m).cp = s.cp := rfl
@[simp] theorem State.setMode_fb (m : DrawMode) : (s.setMode m).fb = s.fb := rfl
@[simp] theorem State.setMode_fm (m : DrawMode) : (s.setMode m).fm = s.fm := rfl
@[simp] theorem State.setMode_bm (m : DrawMode) : (s.setMode m).bm = s.bm := rfl
@[simp] theorem State.setMode_cs (m : DrawMode) : (s.setMode m).cs = s.cs := rfl
@[simp] theorem State.setMode_answers (m : DrawMode) : (s.setMode m).answers = s.answers := rfl
@[simp] theorem State.setMode_transmissions (m : DrawMode) : (s.setMode m).transmissions = s.transmissions := rfl
@[simp] theorem State.setMode_draws (m : DrawMode) : (s.setMode m).draws = s.draws := rfl
@[simp] theorem State.setMode_w' (m : DrawMode) : (s.setMode m).w = s.w := rfl
@[simp] theorem State.setMode_h' (m : DrawMode) : (s.setMode m).h = s.h := rfl
@[simp] theorem State.setMode_pages' (m : DrawMode) : (s.setMode m).pages = s.pages := rfl
@[simp] theorem State.setMode_fbSize' (m : DrawMode) : (s.setMode m).fbSize = s.fbSize := rfl

/-! ## setFonten -/

@[simp] theorem State.setFonten_width (b : Bool) : (s.setFonten b).width = s.width := rfl
@[simp] theorem State.setFonten_height (b : Bool) : (s.setFonten b).height = s.height := rfl
@[simp] theorem State.setFonten_curx (b : Bool) : (s.setFonten b).curx = s.curx := rfl
@[simp] theorem State.setFonten_cury (b : Bool) : (s.setFonten b).cury = s.cury := rfl
@[simp] theorem State.setFonten_dx (b : Bool) : (s.setFonten b).dx = s.dx := rfl
@[simp] theorem State.setFonten_dy (b : Bool) : (s.setFonten b).dy = s.dy := rfl
@[simp] theorem State.setFonten_dw (b : Bool) : (s.setFonten b).dw = s.dw := rfl
@[simp] theorem State.setFonten_dh (b : Bool) : (s.setFonten b).dh = s.dh := rfl
@[simp] theorem State.setFonten_mode (b : Bool) : (s.setFonten b).mode = s.mode := rfl
@[simp] theorem State.setFonten_fonten (b : Bool) : (s.setFonten b).fonten = b := rfl
@[simp] theorem State.setFonten_res (b : Bool) : (s.setFonten b).res = s.res := rfl
@[simp] theorem State.setFonten_fault (b : Bool) : (s.setFonten b).fault = s.fault := rfl
@[simp] theorem State.setFonten_fcode (b : Bool) : (s.setFonten b).fcode = s.fcode := rfl
@[simp] theorem State.setFonten_cp (b : Bool) : (s.setFonten b).cp = s.cp := rfl
@[simp] theorem State.setFonten_fb (b : Bool) : (s.setFonten b).fb = s.fb := rfl
@[simp] theorem State.setFonten_fm (b : Bool) : (s.setFonten b).fm = s.fm := rfl
@[simp] theorem State.setFonten_bm (b : Bool) : (s.setFonten b).bm = s.bm := rfl
@[simp] theorem State.setFonten_cs (b : Bool) : (s.setFonten b).cs = s.cs := rfl
@[simp] theorem State.setFonten_answers (b : Bool) : (s.setFonten b).answers = s.answers := rfl
@[simp] theorem State.setFonten_transmissions (b : Bool) : (s.setFonten b).transmissions = s.transmissions := rfl
@[simp] theorem State.setFonten_draws (b : Bool) : (s.setFonten b).draws = s.draws := rfl
@[simp] theorem State.setFonten_w' (b : Bool) : (s.setFonten b).w = s.w := rfl
@[simp] theorem State.setFonten_h' (b : Bool) : (s.setFonten b).h = s.h := rfl
@[simp] theorem State.setFonten_pages' (b : Bool) : (s.setFonten b).pages = s.pages := rfl
@[simp] theorem State.setFonten_fbSize' (b : Bool) : (s.setFonten b).fbSize = s.fbSize := rfl

/-! ## setRes -/

@[simp] theorem State.setRes_width (v : Half) : (s.setRes v).width = s.width := rfl
@[simp] theorem State.setRes_height (v : Half) : (s.setRes v).height = s.height := rfl
@[simp] theorem State.setRes_curx (v : Half) : (s.setRes v).curx = s.curx := rfl
@[simp] theorem State.setRes_cury (v : Half) : (s.setRes v).cury = s.cury := rfl
@[simp] theorem State.setRes_dx (v : Half) : (s.setRes v).dx = s.dx := rfl
@[simp] theorem State.setRes_dy (v : Half) : (s.setRes v).dy = s.dy := rfl
@[simp] theorem State.setRes_dw (v : Half) : (s.setRes v).dw = s.dw := rfl
@[simp] theorem State.setRes_dh (v : Half) : (s.setRes v).dh = s.dh := rfl
@[simp] theorem State.setRes_mode (v : Half) : (s.setRes v).mode = s.mode := rfl
@[simp] theorem State.setRes_fonten (v : Half) : (s.setRes v).fonten = s.fonten := rfl
@[simp] theorem State.setRes_res (v : Half) : (s.setRes v).res = v := rfl
@[simp] theorem State.setRes_fault (v : Half) : (s.setRes v).fault = s.fault := rfl
@[simp] theorem State.setRes_fcode (v : Half) : (s.setRes v).fcode = s.fcode := rfl
@[simp] theorem State.setRes_cp (v : Half) : (s.setRes v).cp = s.cp := rfl
@[simp] theorem State.setRes_fb (v : Half) : (s.setRes v).fb = s.fb := rfl
@[simp] theorem State.setRes_fm (v : Half) : (s.setRes v).fm = s.fm := rfl
@[simp] theorem State.setRes_bm (v : Half) : (s.setRes v).bm = s.bm := rfl
@[simp] theorem State.setRes_cs (v : Half) : (s.setRes v).cs = s.cs := rfl
@[simp] theorem State.setRes_answers (v : Half) : (s.setRes v).answers = s.answers := rfl
@[simp] theorem State.setRes_transmissions (v : Half) : (s.setRes v).transmissions = s.transmissions := rfl
@[simp] theorem State.setRes_draws (v : Half) : (s.setRes v).draws = s.draws := rfl
@[simp] theorem State.setRes_w' (v : Half) : (s.setRes v).w = s.w := rfl
@[simp] theorem State.setRes_h' (v : Half) : (s.setRes v).h = s.h := rfl
@[simp] theorem State.setRes_pages' (v : Half) : (s.setRes v).pages = s.pages := rfl
@[simp] theorem State.setRes_fbSize' (v : Half) : (s.setRes v).fbSize = s.fbSize := rfl

/-! ## setFb -/

@[simp] theorem State.setFb_width (m : Memory) : (s.setFb m).width = s.width := rfl
@[simp] theorem State.setFb_height (m : Memory) : (s.setFb m).height = s.height := rfl
@[simp] theorem State.setFb_curx (m : Memory) : (s.setFb m).curx = s.curx := rfl
@[simp] theorem State.setFb_cury (m : Memory) : (s.setFb m).cury = s.cury := rfl
@[simp] theorem State.setFb_dx (m : Memory) : (s.setFb m).dx = s.dx := rfl
@[simp] theorem State.setFb_dy (m : Memory) : (s.setFb m).dy = s.dy := rfl
@[simp] theorem State.setFb_dw (m : Memory) : (s.setFb m).dw = s.dw := rfl
@[simp] theorem State.setFb_dh (m : Memory) : (s.setFb m).dh = s.dh := rfl
@[simp] theorem State.setFb_mode (m : Memory) : (s.setFb m).mode = s.mode := rfl
@[simp] theorem State.setFb_fonten (m : Memory) : (s.setFb m).fonten = s.fonten := rfl
@[simp] theorem State.setFb_res (m : Memory) : (s.setFb m).res = s.res := rfl
@[simp] theorem State.setFb_fault (m : Memory) : (s.setFb m).fault = s.fault := rfl
@[simp] theorem State.setFb_fcode (m : Memory) : (s.setFb m).fcode = s.fcode := rfl
@[simp] theorem State.setFb_cp (m : Memory) : (s.setFb m).cp = s.cp := rfl
@[simp] theorem State.setFb_fb (m : Memory) : (s.setFb m).fb = m := rfl
@[simp] theorem State.setFb_fm (m : Memory) : (s.setFb m).fm = s.fm := rfl
@[simp] theorem State.setFb_bm (m : Memory) : (s.setFb m).bm = s.bm := rfl
@[simp] theorem State.setFb_cs (m : Memory) : (s.setFb m).cs = s.cs := rfl
@[simp] theorem State.setFb_answers (m : Memory) : (s.setFb m).answers = s.answers := rfl
@[simp] theorem State.setFb_transmissions (m : Memory) : (s.setFb m).transmissions = s.transmissions := rfl
@[simp] theorem State.setFb_draws (m : Memory) : (s.setFb m).draws = s.draws := rfl
@[simp] theorem State.setFb_w' (m : Memory) : (s.setFb m).w = s.w := rfl
@[simp] theorem State.setFb_h' (m : Memory) : (s.setFb m).h = s.h := rfl
@[simp] theorem State.setFb_pages' (m : Memory) : (s.setFb m).pages = s.pages := rfl
@[simp] theorem State.setFb_fbSize' (m : Memory) : (s.setFb m).fbSize = s.fbSize := rfl

/-! ## advance -/

@[simp] theorem State.advance_width (n : Nat) : (s.advance n).width = s.width := rfl
@[simp] theorem State.advance_height (n : Nat) : (s.advance n).height = s.height := rfl
@[simp] theorem State.advance_curx (n : Nat) : (s.advance n).curx = s.curx := rfl
@[simp] theorem State.advance_cury (n : Nat) : (s.advance n).cury = s.cury := rfl
@[simp] theorem State.advance_dx (n : Nat) : (s.advance n).dx = s.dx := rfl
@[simp] theorem State.advance_dy (n : Nat) : (s.advance n).dy = s.dy := rfl
@[simp] theorem State.advance_dw (n : Nat) : (s.advance n).dw = s.dw := rfl
@[simp] theorem State.advance_dh (n : Nat) : (s.advance n).dh = s.dh := rfl
@[simp] theorem State.advance_mode (n : Nat) : (s.advance n).mode = s.mode := rfl
@[simp] theorem State.advance_fonten (n : Nat) : (s.advance n).fonten = s.fonten := rfl
@[simp] theorem State.advance_res (n : Nat) : (s.advance n).res = s.res := rfl
@[simp] theorem State.advance_fault (n : Nat) : (s.advance n).fault = s.fault := rfl
@[simp] theorem State.advance_fcode (n : Nat) : (s.advance n).fcode = s.fcode := rfl
@[simp] theorem State.advance_cp (n : Nat) : (s.advance n).cp = s.cp + BitVec.ofNat 16 n := rfl
@[simp] theorem State.advance_fb (n : Nat) : (s.advance n).fb = s.fb := rfl
@[simp] theorem State.advance_fm (n : Nat) : (s.advance n).fm = s.fm := rfl
@[simp] theorem State.advance_bm (n : Nat) : (s.advance n).bm = s.bm := rfl
@[simp] theorem State.advance_cs (n : Nat) : (s.advance n).cs = s.cs := rfl
@[simp] theorem State.advance_answers (n : Nat) : (s.advance n).answers = s.answers := rfl
@[simp] theorem State.advance_transmissions (n : Nat) : (s.advance n).transmissions = s.transmissions := rfl
@[simp] theorem State.advance_draws (n : Nat) : (s.advance n).draws = s.draws := rfl
@[simp] theorem State.advance_w' (n : Nat) : (s.advance n).w = s.w := rfl
@[simp] theorem State.advance_h' (n : Nat) : (s.advance n).h = s.h := rfl
@[simp] theorem State.advance_pages' (n : Nat) : (s.advance n).pages = s.pages := rfl
@[simp] theorem State.advance_fbSize' (n : Nat) : (s.advance n).fbSize = s.fbSize := rfl

/-! ## setFault -/

@[simp] theorem State.setFault_width (k : FaultCode) : (s.setFault k).width = s.width := rfl
@[simp] theorem State.setFault_height (k : FaultCode) : (s.setFault k).height = s.height := rfl
@[simp] theorem State.setFault_curx (k : FaultCode) : (s.setFault k).curx = s.curx := rfl
@[simp] theorem State.setFault_cury (k : FaultCode) : (s.setFault k).cury = s.cury := rfl
@[simp] theorem State.setFault_dx (k : FaultCode) : (s.setFault k).dx = s.dx := rfl
@[simp] theorem State.setFault_dy (k : FaultCode) : (s.setFault k).dy = s.dy := rfl
@[simp] theorem State.setFault_dw (k : FaultCode) : (s.setFault k).dw = s.dw := rfl
@[simp] theorem State.setFault_dh (k : FaultCode) : (s.setFault k).dh = s.dh := rfl
@[simp] theorem State.setFault_mode (k : FaultCode) : (s.setFault k).mode = s.mode := rfl
@[simp] theorem State.setFault_fonten (k : FaultCode) : (s.setFault k).fonten = s.fonten := rfl
@[simp] theorem State.setFault_res (k : FaultCode) : (s.setFault k).res = s.res := rfl
@[simp] theorem State.setFault_fault (k : FaultCode) : (s.setFault k).fault = true := rfl
@[simp] theorem State.setFault_fcode (k : FaultCode) : (s.setFault k).fcode = k.code := rfl
@[simp] theorem State.setFault_cp (k : FaultCode) : (s.setFault k).cp = s.cp := rfl
@[simp] theorem State.setFault_fb (k : FaultCode) : (s.setFault k).fb = s.fb := rfl
@[simp] theorem State.setFault_fm (k : FaultCode) : (s.setFault k).fm = s.fm := rfl
@[simp] theorem State.setFault_bm (k : FaultCode) : (s.setFault k).bm = s.bm := rfl
@[simp] theorem State.setFault_cs (k : FaultCode) : (s.setFault k).cs = s.cs := rfl
@[simp] theorem State.setFault_answers (k : FaultCode) : (s.setFault k).answers = s.answers := rfl
@[simp] theorem State.setFault_transmissions (k : FaultCode) : (s.setFault k).transmissions = s.transmissions := rfl
@[simp] theorem State.setFault_draws (k : FaultCode) : (s.setFault k).draws = s.draws := rfl
@[simp] theorem State.setFault_w' (k : FaultCode) : (s.setFault k).w = s.w := rfl
@[simp] theorem State.setFault_h' (k : FaultCode) : (s.setFault k).h = s.h := rfl
@[simp] theorem State.setFault_pages' (k : FaultCode) : (s.setFault k).pages = s.pages := rfl
@[simp] theorem State.setFault_fbSize' (k : FaultCode) : (s.setFault k).fbSize = s.fbSize := rfl

/-! ## unspecify: what a SinkRange or FontRange fault leaves alone (R134) -/

@[simp] theorem State.unspecify_width : s.unspecify.width = s.width := rfl
@[simp] theorem State.unspecify_height : s.unspecify.height = s.height := rfl
@[simp] theorem State.unspecify_fault : s.unspecify.fault = s.fault := rfl
@[simp] theorem State.unspecify_fcode : s.unspecify.fcode = s.fcode := rfl
@[simp] theorem State.unspecify_cp : s.unspecify.cp = s.cp := rfl
@[simp] theorem State.unspecify_fm : s.unspecify.fm = s.fm := rfl
@[simp] theorem State.unspecify_bm : s.unspecify.bm = s.bm := rfl
@[simp] theorem State.unspecify_cs : s.unspecify.cs = s.cs := rfl
@[simp] theorem State.unspecify_answers : s.unspecify.answers = s.answers := rfl
@[simp] theorem State.unspecify_transmissions : s.unspecify.transmissions = s.transmissions := rfl

/-! ## reassertReset -/

section
variable (fm bm cs : Rom) (answers : List Bool)

@[simp] theorem State.reassertReset_width : (s.reassertReset fm bm cs answers).width = s.width := rfl
@[simp] theorem State.reassertReset_height : (s.reassertReset fm bm cs answers).height = s.height := rfl
@[simp] theorem State.reassertReset_pages : (s.reassertReset fm bm cs answers).pages = s.pages := rfl
@[simp] theorem State.reassertReset_fault : (s.reassertReset fm bm cs answers).fault = false := rfl
@[simp] theorem State.reassertReset_fcode : (s.reassertReset fm bm cs answers).fcode = 0 := rfl
@[simp] theorem State.reassertReset_cp : (s.reassertReset fm bm cs answers).cp = 0 := rfl
@[simp] theorem State.reassertReset_fb : (s.reassertReset fm bm cs answers).fb = ⟨.free s.draws, []⟩ := rfl
end

end Sys2Proof.Machine
end

