-- ==== Sys2Proof/Laws/Sink.lean ====
section
/-! SUPPORT. Everything a sink call and a sequence of sink calls can do (R42 to R46). -/

namespace Sys2Proof.Machine

/-! ## Apply -/

@[simp] theorem applyMask_fill (mode : DrawMode) (fb : Memory) (i : Nat) (m : Byte) :
    (applyMask mode fb i m).fill = fb.fill := rfl

theorem applyMasks_append (mode : DrawMode) (xs ys : List (Nat × Byte)) (fb : Memory) :
    applyMasks mode (xs ++ ys) fb = applyMasks mode ys (applyMasks mode xs fb) := by
  induction xs generalizing fb with
  | nil => rfl
  | cons x xs ih => exact ih _

@[simp] theorem applyMasks_fill (mode : DrawMode) (ims : List (Nat × Byte)) (fb : Memory) :
    (applyMasks mode ims fb).fill = fb.fill := by
  induction ims generalizing fb with
  | nil => rfl
  | cons im rest ih => exact (ih _).trans (applyMask_fill mode fb im.1 im.2)

theorem applyMasks_wf (mode : DrawMode) (ims : List (Nat × Byte)) (fb : Memory) (h : fb.wf = true) :
    (applyMasks mode ims fb).wf = true := by
  induction ims generalizing fb with
  | nil => exact h
  | cons im rest ih => exact ih _ (fb.wf_write _ _ h)

/-- An address no mask names reads as before. -/
theorem applyMasks_read_other (mode : DrawMode) (ims : List (Nat × Byte)) (fb : Memory) (a : Nat)
    (h : ∀ im ∈ ims, im.1 ≠ a) : (applyMasks mode ims fb).read a = fb.read a := by
  induction ims generalizing fb with
  | nil => rfl
  | cons im rest ih =>
    have him := h im (by simp)
    exact (ih _ fun x hx => h x (by simp [hx])).trans (fb.read_write_other _ _ _ (Ne.symm him))

/-- Nothing is listed but the old entries and the addresses the masks name. -/
theorem applyMasks_mem (mode : DrawMode) (ims : List (Nat × Byte)) (fb : Memory) (c : Host.Cell)
    (h : c ∈ (applyMasks mode ims fb).cells) : c ∈ fb.cells ∨ ∃ im ∈ ims, im.1 = c.1 := by
  induction ims generalizing fb with
  | nil => exact .inl h
  | cons im rest ih =>
    rcases ih _ h with h | ⟨x, hx, hc⟩
    · rcases fb.mem_write _ _ c h with h | h
      · exact .inl h
      · exact .inr ⟨im, by simp, h.symm⟩
    · exact .inr ⟨x, by simp [hx], hc⟩

/-! ## Sink calls -/

@[simp] theorem SinkCall.inDomain_setFb (s : State) (m : Memory) :
    SinkCall.inDomain (s.setFb m) = SinkCall.inDomain s := by funext c; cases c <;> rfl

@[simp] theorem SinkCall.writes_setFb (s : State) (m : Memory) :
    SinkCall.writes (s.setFb m) = SinkCall.writes s := by funext c; cases c <;> rfl

theorem SinkCall.run_inside (c : SinkCall) (s : State) (h : c.inDomain s = true) :
    c.run s = .ok (s.setFb (applyMasks s.mode (c.writes s) s.fb)) := by simp [SinkCall.run, h]

theorem SinkCall.run_outside (c : SinkCall) (s : State) (h : c.inDomain s = false) :
    c.run s = .error .sinkRange := by simp [SinkCall.run, h]

/-- A sequence of sink calls: all in their domains, and then only `FB` differs; or `SinkRange`. -/
theorem runSinks_eq (calls : List SinkCall) (s : State) :
    runSinks calls s =
      if calls.all (SinkCall.inDomain s) then
        .ok (s.setFb (applyMasks s.mode (calls.flatMap (SinkCall.writes s)) s.fb))
      else .error .sinkRange := by
  induction calls generalizing s with
  | nil => rfl
  | cons c rest ih =>
    unfold runSinks
    cases hc : c.inDomain s with
    | false => simp [c.run_outside s hc, hc]
    | true =>
      rw [c.run_inside s hc]
      simp only [ih, SinkCall.inDomain_setFb, SinkCall.writes_setFb, List.all_cons, hc, Bool.true_and,
        List.flatMap_cons, State.setFb_mode, State.setFb_fb, applyMasks_append]
      rfl

theorem runSinks_append (xs ys : List SinkCall) (s : State) :
    runSinks (xs ++ ys) s = (match runSinks xs s with | .ok t => runSinks ys t | .error k => .error k) := by
  induction xs generalizing s with
  | nil => rfl
  | cons c rest ih =>
    simp only [List.cons_append, runSinks]
    cases c.run s with
    | error k => rfl
    | ok t => exact ih t

end Sys2Proof.Machine
end

