-- ==== Sys2Proof/Laws/Corner.lean ====
section
/-! SUPPORT. What the corner walk (R111, R112) can do: the closed form of its variables, and that it emits offsets in
`1..r × 1..r` only (R113 (c)). -/

namespace Sys2Proof.Machine

/-- The quadrants' range, one condition under the mask bit it belongs to. -/
theorem quadrantsInRange_iff (cx cy r : Nat) (m : Byte) :
    quadrantsInRange cx cy r m = true ↔
      (maskBit m 0 = true → r ≤ cx ∧ r ≤ cy) ∧ (maskBit m 1 = true → cx + r ≤ 255 ∧ r ≤ cy) ∧
      (maskBit m 2 = true → cx + r ≤ 255 ∧ cy + r ≤ 255) ∧ (maskBit m 3 = true → r ≤ cx ∧ cy + r ≤ 255) := by
  unfold quadrantsInRange
  cases maskBit m 0 <;> cases maskBit m 1 <;> cases maskBit m 2 <;> cases maskBit m 3 <;> simp [and_assoc]

/-- The variables of the corner walk in closed form: `i` x steps and `j` y steps have been made, and the error term is
the circle's equation at the next diagonal point. -/
structure CornerAt (r i j : Int) (v : CornerVars) : Prop where
  x : v.x = i - r
  y : v.y = j
  err : v.err = (i - r + 1) * (i - r + 1) + (j + 1) * (j + 1) - r * r

theorem cornerSetup_at (r : Int) : CornerAt r 0 0 ⟨-r, 0, 2 - 2 * r⟩ := by
  constructor
  · simp
  · rfl
  · simp only; ring

/-- The top row is never left: no y step is decided at `y = r`. -/
theorem corner_top_row {r i j : Int} {v : CornerVars} (h : CornerAt r i j v) (hr : 0 ≤ r) (hj : j = r)
    (he : v.err ≤ v.y) : False := by
  have h1 := h.err
  have h2 := h.y
  subst hj
  have hsq : 0 ≤ (i - j + 1) * (i - j + 1) := mul_self_nonneg _
  nlinarith

/-- One iteration from the loop's head: at least one step, at most one of each, and the row stays within the radius. -/
theorem cornerStep_at {r i j : Int} {v : CornerVars} (h : CornerAt r i j v) (hr : 0 ≤ r) (hjr : j ≤ r) :
    ∃ i' j', CornerAt r i' j' (cornerStep v) ∧ i ≤ i' ∧ i' ≤ i + 1 ∧ j ≤ j' ∧ j' ≤ j + 1 ∧ i + j < i' + j' ∧
      j' ≤ r := by
  obtain ⟨h1, h2, h3⟩ := h
  by_cases he : v.err ≤ v.y
  · have hjt : j ≠ r := fun hj => corner_top_row ⟨h1, h2, h3⟩ hr hj he
    have hu : cornerStepY v = { v with y := v.y + 1, err := v.err + (2 * (v.y + 1) + 1) } := if_pos he
    unfold cornerStep
    simp only [hu]
    split
    · refine ⟨i + 1, j + 1, ⟨?_, ?_, ?_⟩, by omega, by omega, by omega, by omega, by omega, by omega⟩ <;> simp only
      · omega
      · omega
      · rw [h3, h2, h1]; ring
    · refine ⟨i, j + 1, ⟨?_, ?_, ?_⟩, by omega, by omega, by omega, by omega, by omega, by omega⟩ <;> simp only
      · omega
      · omega
      · rw [h3, h2]; ring
  · have hu : cornerStepY v = v := if_neg he
    unfold cornerStep
    have hx : cornerXstep v v = true := by
      unfold cornerXstep
      simp only [Bool.or_eq_true, decide_eq_true_eq]
      exact .inr (by omega)
    simp only [hu, hx, if_true]
    refine ⟨i + 1, j, ⟨?_, ?_, ?_⟩, by omega, by omega, by omega, by omega, by omega, by omega⟩ <;> simp only
    · omega
    · omega
    · rw [h3, h1]; ring

/-- Every call of the walk is emitted for an offset in `1..r × 1..r` (R113 (c)). -/
theorem cornerWalk_emits (cx cy r : Int) (m : Byte) (hr : 0 ≤ r) (fuel : Nat) (i j : Int) (v : CornerVars)
    (h : CornerAt r i j v) (hi0 : 0 ≤ i) (hi : i ≤ r) (hj : 0 ≤ j) (hjr : j ≤ r) (c : SinkCall)
    (hc : c ∈ cornerWalk cx cy m fuel v) :
    ∃ ex ey xstep, 1 ≤ ex ∧ ex ≤ r ∧ 1 ≤ ey ∧ ey ≤ r ∧ c ∈ cornerEmit cx cy m ex ey xstep := by
  induction fuel generalizing i j v with
  | zero => simp [cornerWalk] at hc
  | succ n ih =>
    unfold cornerWalk at hc
    rcases List.mem_append.mp hc with hc | hc
    · split at hc
      · rename_i hex
        exact ⟨_, _, _, hex.1, by rw [h.x]; omega, hex.2, by rw [h.y]; omega, hc⟩
      · simp at hc
    · obtain ⟨i', j', hu, h1, h2, h3, h4, h5, h6⟩ := cornerStep_at h hr hjr
      split at hc
      · simp at hc
      · rename_i hx
        rw [hu.x] at hx
        exact ih i' j' _ hu (by omega) (by omega) (by omega) h6 hc

theorem cornerCalls_emits (cx cy : Int) (r : Nat) (m : Byte) (c : SinkCall) (hc : c ∈ cornerCalls cx cy r m) :
    ∃ ex ey xstep, 1 ≤ ex ∧ ex ≤ (r : Int) ∧ 1 ≤ ey ∧ ey ≤ (r : Int) ∧ c ∈ cornerEmit cx cy m ex ey xstep :=
  cornerWalk_emits cx cy r m (by omega) _ 0 0 _ (cornerSetup_at r) le_rfl (by omega) le_rfl (by omega) c hc

end Sys2Proof.Machine
end

