-- ==== Sys2Proof/Laws/Fault.lean ====
section
/-! SUPPORT. Taking a fault (R134) and completing a command (R72): everything they can do. -/

namespace Sys2Proof.Machine

section
variable (s : State) (k : FaultCode)

@[simp] theorem State.takeFault_fault : (s.takeFault k).fault = true := by cases k <;> rfl
@[simp] theorem State.takeFault_fcode : (s.takeFault k).fcode = k.code := by cases k <;> rfl
@[simp] theorem State.takeFault_cp : (s.takeFault k).cp = s.cp := by cases k <;> rfl
@[simp] theorem State.takeFault_width : (s.takeFault k).width = s.width := by cases k <;> rfl
@[simp] theorem State.takeFault_height : (s.takeFault k).height = s.height := by cases k <;> rfl
@[simp] theorem State.takeFault_fm : (s.takeFault k).fm = s.fm := by cases k <;> rfl
@[simp] theorem State.takeFault_bm : (s.takeFault k).bm = s.bm := by cases k <;> rfl
@[simp] theorem State.takeFault_cs : (s.takeFault k).cs = s.cs := by cases k <;> rfl
@[simp] theorem State.takeFault_answers : (s.takeFault k).answers = s.answers := by cases k <;> rfl
@[simp] theorem State.takeFault_transmissions : (s.takeFault k).transmissions = s.transmissions := by cases k <;> rfl

/-- A precise fault writes `STATUS` and nothing else (R134). -/
theorem State.takeFault_precise (h : k.precise = true) : s.takeFault k = s.setFault k := by
  simp [State.takeFault, h]

/-- The code of a fault is 1 to 4 (R132). -/
theorem FaultCode.code_range : 1 ≤ k.code.toNat ∧ k.code.toNat ≤ 4 := by cases k <;> decide

end

@[simp] theorem State.finish_ok (s : State) (len : Nat) (t : State) :
    s.finish len (.ok t) = .next (t.advance len) := rfl

@[simp] theorem State.finish_error (s : State) (len : Nat) (k : FaultCode) :
    s.finish len (.error k) = .next (s.takeFault k) := rfl

/-- A command always answers a next state: its effect with `CP` advanced, or a fault entry. -/
theorem State.finish_next (s : State) (len : Nat) (r : Except FaultCode State) :
    (∃ t, r = .ok t ∧ s.finish len r = .next (t.advance len)) ∨
    (∃ k, r = .error k ∧ s.finish len r = .next (s.takeFault k)) := by
  cases r with
  | ok t => exact .inl ⟨t, rfl, rfl⟩
  | error k => exact .inr ⟨k, rfl, rfl⟩

/-- Where a command leaves `FAULT = 0` it raised no fault: the state is its effect with `CP` advanced. -/
theorem State.finish_completes (s : State) (len : Nat) (r : Except FaultCode State) (t : State)
    (h : s.finish len r = .next t) (hf : t.fault = false) : ∃ u, r = .ok u ∧ t = u.advance len := by
  rcases s.finish_next len r with ⟨u, hu, he⟩ | ⟨k, -, he⟩
  · exact ⟨u, hu, by rw [he] at h; injection h with h; exact h.symm⟩
  · rw [he] at h
    injection h with h
    rw [← h] at hf
    simp at hf

end Sys2Proof.Machine
end

