-- ==== Sys2Proof/Laws/Fetch.lean ====
section
/-! SUPPORT. Fetch (R72): the bytes the decoder is given are those of `CS` at `CP`. -/

namespace Sys2Proof.Machine

@[simp] theorem State.fetchBytes_length (s : State) :
    s.fetchBytes.length = min maxCommandBytes (s.cs.size - s.cp.toNat) := by simp [State.fetchBytes]

/-- Byte `k` of the fetch window is `CS[CP + k]` (R72), and there is none beyond the stream. -/
theorem State.fetchBytes_getElem? (s : State) (k : Nat) (h : k < maxCommandBytes) :
    s.fetchBytes[k]? = s.cs.read (s.cp.toNat + k) := by
  unfold State.fetchBytes Rom.read
  by_cases hk : s.cp.toNat + k < s.cs.size
  · rw [if_pos hk, List.getElem?_map, List.getElem?_range (by omega)]
    rfl
  · rw [if_neg hk, List.getElem?_eq_none]
    simp
    omega

end Sys2Proof.Machine
end

