-- ==== Sys2Proof/Laws/Line.lean ====
section
/-! SUPPORT. What the line walk (R93) can do: it covers pixels of the box its endpoints span and no other. -/

namespace Sys2Proof.Machine

/-- Every call of the walk is a pixel reached by at most `dx` x steps and at most `dy` y steps: the walk breaks where
an axis would advance past its target (R93). -/
theorem lineWalk_pixels (dx dy sx sy xs ys : Int) (hsx : sx = 1 ∨ sx = -1) (hsy : sy = 1 ∨ sy = -1) (fuel : Nat)
    (i j err : Int) (hi : 0 ≤ i) (hid : i ≤ dx) (hj : 0 ≤ j) (hjd : j ≤ dy) (c : SinkCall)
    (hc : c ∈ lineWalk dx dy sx sy (xs + sx * dx) (ys + sy * dy) fuel (xs + sx * i) (ys + sy * j) err) :
    ∃ p q, 0 ≤ p ∧ p ≤ dx ∧ 0 ≤ q ∧ q ≤ dy ∧ c = .pixel (xs + sx * p) (ys + sy * q) := by
  induction fuel generalizing i j err with
  | zero => simp [lineWalk] at hc
  | succ n ih =>
    unfold lineWalk at hc
    rcases List.mem_cons.mp hc with rfl | hc
    · exact ⟨i, j, hi, hid, hj, hjd, rfl⟩
    · have hxe : xs + sx * i = xs + sx * dx ↔ i = dx := by rcases hsx with rfl | rfl <;> constructor <;> intro h <;> omega
      have hye : ys + sy * j = ys + sy * dy ↔ j = dy := by rcases hsy with rfl | rfl <;> constructor <;> intro h <;> omega
      split at hc
      · simp at hc
      · rename_i hx
        split at hc
        · simp at hc
        · rename_i hy
          simp only [Bool.and_eq_true, decide_eq_true_eq, not_and, hxe, hye] at hx hy
          simp only [decide_eq_true_eq] at hc
          refine ih (if 2 * err > -dy then i + 1 else i) (if 2 * err < dx then j + 1 else j) _ ?_ ?_ ?_ ?_
            (by convert hc using 2 <;> split <;> ring)
          · split <;> omega
          · split
            · have := hx ‹_›; omega
            · omega
          · split <;> omega
          · split
            · have := hy ‹_›; omega
            · omega

end Sys2Proof.Machine
end

