-- ==== Sys2Proof/Laws/Oval.lean ====
section
/-! SUPPORT. What the oval walk (R101 to R104) can do: the closed form of its variables, and that its rows and columns
never leave the rectangle (R107 (c)). -/

namespace Sys2Proof.Machine

/-- A sink call whose exact arguments lie in columns `x .. x + a` and rows `y .. y + b`, runs with ordered ends. -/
def SinkCall.within (x y a b : Int) : SinkCall → Prop
  | .pixel u v => x ≤ u ∧ u ≤ x + a ∧ y ≤ v ∧ v ≤ y + b
  | .hrun l r v => x ≤ l ∧ l ≤ r ∧ r ≤ x + a ∧ y ≤ v ∧ v ≤ y + b
  | .vrun u t d => x ≤ u ∧ u ≤ x + a ∧ y ≤ t ∧ t ≤ d ∧ d ≤ y + b

/-- The variables of the oval walk after `i` x steps and `j` y steps, in closed form: the error term is the ellipse's
equation at the next diagonal point, in doubled coordinates about the centre. -/
structure OvalAt (x y a b i j : Int) (v : OvalVars) : Prop where
  x0 : v.x0 = x + i
  x1 : v.x1 = x + a - i
  y0 : v.y0 = y + (b + 1) / 2 + j
  y1 : v.y1 = y + b / 2 - j
  dx : v.dx = 4 * b * b * (2 * i + 1 - a)
  dy : v.dy = 4 * a * a * (2 * j + 1 + b % 2)
  err : v.err = b * b * ((2 * i + 2 - a) * (2 * i + 2 - a) - a * a) + a * a * ((2 * j + 2 + b % 2) * (2 * j + 2 + b % 2))

theorem ovalSetup_at (x y : Int) (w h : Nat) :
    OvalAt x y ((w : Int) - 1) ((h : Int) - 1) 0 0 (ovalSetup x y w h) := by
  have hb : ((h : Int) - 1) % 2 = 0 ∨ ((h : Int) - 1) % 2 = 1 := by omega
  constructor <;> simp only [ovalSetup]
  · omega
  · omega
  · omega
  · omega
  · ring
  · ring
  · rcases hb with hb | hb <;> rw [hb] <;> ring

theorem ovalStepY_at {x y a b i j : Int} {v : OvalVars} (h : OvalAt x y a b i j v) :
    OvalAt x y a b i (j + 1) (ovalStepY (8 * a * a) v) := by
  obtain ⟨h1, h2, h3, h4, h5, h6, h7⟩ := h
  constructor <;> simp only [ovalStepY]
  · exact h1
  · exact h2
  · omega
  · omega
  · exact h5
  · rw [h6]; ring
  · rw [h6, h7]; ring

theorem ovalStepX_at {x y a b i j : Int} {v : OvalVars} (h : OvalAt x y a b i j v) :
    OvalAt x y a b (i + 1) j (ovalStepX (8 * b * b) v) := by
  obtain ⟨h1, h2, h3, h4, h5, h6, h7⟩ := h
  constructor <;> simp only [ovalStepX]
  · omega
  · omega
  · exact h3
  · exact h4
  · rw [h5]; ring
  · exact h6
  · rw [h5, h7]; ring

/-- At the top and bottom rows no y step is decided, but for the 1×1 oval. -/
theorem oval_top_row {x y a b i j : Int} {v : OvalVars} (h : OvalAt x y a b i j v) (ha : 0 ≤ a) (hb : 0 ≤ b)
    (hi : 0 ≤ i) (hia : 2 * i ≤ a) (hj : j = b / 2) (he : 2 * v.err ≤ v.dy) : a = 0 ∧ b = 0 := by
  have h6 : v.dy = 4 * a * a * (b + 1) := by rw [h.dy, show 2 * j + 1 + b % 2 = b + 1 by omega]
  have h7 : v.err = b * b * ((2 * i + 2 - a) * (2 * i + 2 - a)) + a * a * (4 * b + 4) := by
    rw [h.err, show 2 * j + 2 + b % 2 = b + 2 by omega]; ring
  have hsq : 0 ≤ b * b * ((2 * i + 2 - a) * (2 * i + 2 - a)) :=
    mul_nonneg (mul_self_nonneg b) (mul_self_nonneg _)
  have haa : 0 ≤ a * a := mul_self_nonneg a
  have hle : a * a * (4 * b + 4) ≤ 0 := by nlinarith
  have ha0 : a = 0 := by
    by_contra hne
    have : 0 < a * a := by positivity
    nlinarith
  refine ⟨ha0, ?_⟩
  subst ha0
  obtain rfl : i = 0 := by omega
  have : b * b * 4 ≤ 0 := by nlinarith
  nlinarith

/-- One iteration from the loop's head: at least one step, at most one of each, and the rows stay in the rectangle
or the two fronts have crossed. -/
theorem ovalStep_at {x y a b i j : Int} {v : OvalVars} (h : OvalAt x y a b i j v) (ha : 0 ≤ a) (hb : 0 ≤ b)
    (hi : 0 ≤ i) (hia : 2 * i ≤ a) (hj : 0 ≤ j) (hjb : j ≤ b / 2) :
    ∃ i' j', OvalAt x y a b i' j' (ovalStep (8 * a * a) (8 * b * b) v) ∧ i ≤ i' ∧ i' ≤ i + 1 ∧ j ≤ j' ∧ j' ≤ j + 1 ∧
      i + j < i' + j' ∧ (j' ≤ b / 2 ∨ (a = 0 ∧ b = 0 ∧ i' = 1 ∧ j' = 1)) := by
  unfold ovalStep
  by_cases he : 2 * v.err ≤ v.dy
  · simp only [he, if_true]
    have hy := ovalStepY_at h
    by_cases hjt : j = b / 2
    · obtain ⟨rfl, rfl⟩ := oval_top_row h ha hb hi hia hjt he
      obtain rfl : i = 0 := by omega
      obtain rfl : j = 0 := by omega
      have hx : 2 * v.err ≥ v.dx := by rw [h.err, h.dx]; norm_num
      rw [if_pos (.inl hx)]
      exact ⟨1, 1, ovalStepX_at hy, by omega, by omega, by omega, by omega, by omega, .inr ⟨rfl, rfl, rfl, rfl⟩⟩
    · split
      · exact ⟨i + 1, j + 1, ovalStepX_at hy, by omega, by omega, by omega, by omega, by omega, .inl (by omega)⟩
      · exact ⟨i, j + 1, hy, by omega, by omega, by omega, by omega, by omega, .inl (by omega)⟩
  · simp only [he, if_false]
    rw [if_pos (.inr (by omega))]
    exact ⟨i + 1, j, ovalStepX_at h, by omega, by omega, by omega, by omega, by omega, .inl hjb⟩

theorem ovalEmit_within {x y a b i j : Int} {v : OvalVars} (fill : Bool) (h : OvalAt x y a b i j v)
    (hi : 0 ≤ i) (hia : 2 * i ≤ a) (hj : 0 ≤ j) (hjb : j ≤ b / 2) (hb : 0 ≤ b) (c : SinkCall)
    (hc : c ∈ ovalEmit fill (y + (b + 1) / 2) (y + b / 2) v) : c.within x y a b := by
  obtain ⟨h1, h2, h3, h4, -, -, -⟩ := h
  unfold ovalEmit at hc
  split at hc <;> simp only [List.mem_cons, List.not_mem_nil, or_false] at hc <;>
    rcases hc with rfl | rfl | rfl | rfl <;> simp only [SinkCall.within] <;> omega

/-- The main loop's calls stay in the rectangle; it ends because the fronts have crossed by one step, with the rows
still in the rectangle, or as the 1×1 oval. -/
theorem ovalMain_spec (x y a b : Int) (fill : Bool) (ha : 0 ≤ a) (hb : 0 ≤ b) (fuel : Nat) (i j : Int)
    (v : OvalVars) (h : OvalAt x y a b i j v) (hi : 0 ≤ i) (hia : 2 * i ≤ a) (hj : 0 ≤ j) (hjb : j ≤ b / 2)
    (hfuel : a / 2 + b / 2 + 1 - i - j ≤ fuel) :
    let r := ovalMain (ovalEmit fill (y + (b + 1) / 2) (y + b / 2)) (8 * a * a) (8 * b * b) fuel v
    (∀ c ∈ r.1, c.within x y a b) ∧
    ∃ i' j', OvalAt x y a b i' j' r.2 ∧ a < 2 * i' ∧ 2 * i' ≤ a + 2 ∧ 0 ≤ j' ∧ (j' ≤ b / 2 ∨ (b = 0 ∧ j' = 1)) := by
  induction fuel generalizing i j v with
  | zero => omega
  | succ n ih =>
    obtain ⟨i', j', hu, h1, h2, h3, h4, h5, h6⟩ := ovalStep_at h ha hb hi hia hj hjb
    simp only [ovalMain]
    have hcross : (ovalStep (8 * a * a) (8 * b * b) v).x0 ≤ (ovalStep (8 * a * a) (8 * b * b) v).x1 ↔ 2 * i' ≤ a := by
      rw [hu.x0, hu.x1]; omega
    have hemit := ovalEmit_within fill h hi hia hj hjb hb
    split
    · rename_i hx
      have hx := hcross.mp hx
      have hj' : j' ≤ b / 2 := by omega
      obtain ⟨hc, hr⟩ := ih i' j' _ hu (by omega) hx (by omega) hj' (by omega)
      refine ⟨fun c hm => ?_, hr⟩
      rcases List.mem_append.mp hm with hm | hm
      · exact hemit c hm
      · exact hc c hm
    · rename_i hx
      have hx : ¬2 * i' ≤ a := fun hh => hx (hcross.mpr hh)
      exact ⟨hemit, i', j', hu, by omega, by omega, by omega, by omega⟩

/-- The trailing loop's calls stay in the rectangle. -/
theorem ovalTrail_within (x y a b i : Int) (ha : a < 2 * i) (hia : 2 * i ≤ a + 2) (hi : 1 ≤ i) (fuel : Nat) (j : Int)
    (v : OvalVars) (hx0 : v.x0 = x + i) (hx1 : v.x1 = x + a - i) (hy0 : v.y0 = y + (b + 1) / 2 + j)
    (hy1 : v.y1 = y + b / 2 - j) (hj : 0 ≤ j) (hb : 0 ≤ b) (c : SinkCall) (hc : c ∈ ovalTrail b fuel v) :
    c.within x y a b := by
  induction fuel generalizing j v with
  | zero => simp [ovalTrail] at hc
  | succ n ih =>
    unfold ovalTrail at hc
    split at hc
    · rcases List.mem_append.mp hc with hc | hc
      · simp only [List.mem_cons, List.not_mem_nil, or_false] at hc
        rcases hc with rfl | rfl | rfl | rfl <;> simp only [SinkCall.within] <;> omega
      · exact ih (j + 1) { v with y0 := v.y0 + 1, y1 := v.y1 - 1 } hx0 hx1 (by simp only; omega) (by simp only; omega)
          (by omega) hc
    · simp at hc

/-- Every sink call of an oval lies in its rectangle (R107 (c)). -/
theorem ovalCalls_within (fill : Bool) (x y : Int) (w h : Nat) (hw : 1 ≤ w) (hh : 1 ≤ h) (c : SinkCall)
    (hc : c ∈ ovalCalls fill x y w h) : c.within x y ((w : Int) - 1) ((h : Int) - 1) := by
  have hat := ovalSetup_at x y w h
  have hy0 : (ovalSetup x y w h).y0 = y + ((h : Int) - 1 + 1) / 2 := by rw [hat.y0]; omega
  have hy1 : (ovalSetup x y w h).y1 = y + ((h : Int) - 1) / 2 := by rw [hat.y1]; omega
  obtain ⟨hmain, i, j, hr, h1, h2, h3, -⟩ := ovalMain_spec x y ((w : Int) - 1) ((h : Int) - 1) fill (by omega)
    (by omega) (w + h) 0 0 _ hat (by omega) (by omega) (by omega) (by omega) (by push_cast; omega)
  simp only [ovalCalls, hy0, hy1] at hc
  rcases List.mem_append.mp hc with hc | hc
  · exact hmain c hc
  · exact ovalTrail_within x y _ _ i h1 h2 (by omega) h j _ hr.x0 hr.x1 hr.y0 hr.y1 h3 (by omega) c hc

end Sys2Proof.Machine
end

