-- ==== Sys2Proof/Laws/PerInstr.lean ====
section
/-! SUPPORT. Statements made per instruction: every command's encoding has the length its format gives (R65, R66). -/

namespace Sys2Proof.Laws.EncodedLength

/-- The encoding has `Instr.length` bytes, and its first byte is an opcode of R68. -/
def Statement (i : Instr) : Prop :=
  (encode i).length = i.length ∧ ((encode i).head?.bind opcodeRow?).isSome = true

theorem moveto (x y : Byte) : Statement (.moveto x y) := ⟨rfl, rfl⟩
theorem setmode (m : Byte) : Statement (.setmode m) := ⟨rfl, rfl⟩
theorem setfont (en : Byte) : Statement (.setfont en) := ⟨rfl, rfl⟩
theorem clear : Statement .clear := ⟨rfl, rfl⟩
theorem markdirty (l t w h : Byte) : Statement (.markdirty l t w h) := ⟨rfl, rfl⟩
theorem invalidate : Statement .invalidate := ⟨rfl, rfl⟩
theorem validate : Statement .validate := ⟨rfl, rfl⟩
theorem flush : Statement .flush := ⟨rfl, rfl⟩
theorem pixel (x y : Byte) : Statement (.pixel x y) := ⟨rfl, rfl⟩
theorem lineto (x y : Byte) : Statement (.lineto x y) := ⟨rfl, rfl⟩
theorem framerect (x y w h : Byte) : Statement (.framerect x y w h) := ⟨rfl, rfl⟩
theorem paintrect (x y w h : Byte) : Statement (.paintrect x y w h) := ⟨rfl, rfl⟩
theorem frameoval (x y w h : Byte) : Statement (.frameoval x y w h) := ⟨rfl, rfl⟩
theorem paintoval (x y w h : Byte) : Statement (.paintoval x y w h) := ⟨rfl, rfl⟩
theorem corner (cx cy r m : Byte) : Statement (.corner cx cy r m) := ⟨rfl, rfl⟩
theorem framerrect (x y w h c : Byte) : Statement (.framerrect x y w h c) := ⟨rfl, rfl⟩
theorem paintrrect (x y w h c : Byte) : Statement (.paintrrect x y w h c) := ⟨rfl, rfl⟩
theorem widthc (c : Byte) : Statement (.widthc c) := ⟨rfl, rfl⟩
theorem widths (s : List Byte) : Statement (.widths s) := ⟨by simp [encode, Instr.length]; omega, rfl⟩
theorem drawchar (c : Byte) : Statement (.drawchar c) := ⟨rfl, rfl⟩
theorem drawstr (s : List Byte) : Statement (.drawstr s) := ⟨by simp [encode, Instr.length]; omega, rfl⟩
end Sys2Proof.Laws.EncodedLength
end

