-- ==== Sys2Proof/Laws/Text.lean ====
section
/-! SUPPORT. What blitting a glyph can do (R124): with every bit readable it is the sink calls of its set bits, and its
first offending cell is the fault it raises (R136). -/

namespace Sys2Proof.Machine

@[simp] theorem State.setFb_bitmapBit (s : State) (m : Memory) (k : Nat) : (s.setFb m).bitmapBit k = s.bitmapBit k := rfl

/-- A sink call that does not fault leaves the bitmap as it was. -/
theorem SinkCall.run_bitmapBit (c : SinkCall) (s t : State) (h : c.run s = .ok t) : t.bitmapBit = s.bitmapBit := by
  unfold SinkCall.run at h
  split at h
  · injection h with h
    rw [← h]
    rfl
  · exact absurd h (by simp)

/-- With every bit readable, the blit is one `SinkPixel` per set bit, in the order of the cells. -/
theorem blitCells_readable (g : Glyph) (ox oy : Byte) (bit : Nat × Nat → Bool) (cells : List (Nat × Nat)) (s : State)
    (h : ∀ cr ∈ cells, s.bitmapBit (g.bitmapOffset + cr.2 * g.width + cr.1) = .ok (bit cr)) :
    blitCells g ox oy cells s =
      runSinks ((cells.filter bit).map fun cr => .pixel (ox.int + cr.1) (oy.int + cr.2)) s := by
  induction cells generalizing s with
  | nil => rfl
  | cons cr rest ih =>
    have hrest : ∀ c ∈ rest, s.bitmapBit (g.bitmapOffset + c.2 * g.width + c.1) = .ok (bit c) :=
      fun c hc => h c (by simp [hc])
    unfold blitCells
    rw [h cr (by simp)]
    cases hb : bit cr with
    | false => simpa [List.filter_cons, hb] using ih s hrest
    | true =>
      simp only [List.filter_cons, hb, if_true, List.map_cons, runSinks]
      cases hrun : SinkCall.run (.pixel (ox.int + cr.1) (oy.int + cr.2)) s with
      | error k => rfl
      | ok t => exact ih t fun c hc => by rw [SinkCall.run_bitmapBit _ _ _ hrun]; exact hrest c hc

/-- A bit of the glyph that cannot be read raises `FontRange`, and no other fault. -/
theorem State.bitmapBit_error (s : State) (k : Nat) (e : FaultCode) (h : s.bitmapBit k = .error e) : e = .fontRange := by
  unfold State.bitmapBit at h
  split at h
  · exact absurd h (by simp)
  · injection h with h
    exact h.symm

/-- A cell raises nothing exactly where its bit is readable and, if set, its pixel is on the display. -/
theorem State.cellFault_eq_none (s : State) (g : Glyph) (k : Nat) :
    s.cellFault g k = none ↔ ∃ bit, s.bitmapBit (g.bitmapOffset + k) = .ok bit ∧
      (bit = true → (SinkCall.pixel ((s.glyphOrigin g).1.int + (k % g.width : Nat))
        ((s.glyphOrigin g).2.int + (k / g.width : Nat))).inDomain s = true) := by
  unfold State.cellFault
  cases s.bitmapBit (g.bitmapOffset + k) with
  | error e => simp
  | ok bit => cases bit <;> simp

end Sys2Proof.Machine
end

