-- ==== Sys2Proof/Laws/Tracker.lean ====
section
/-! SUPPORT. What `MarkDirty` (R77) and `Transmit` (R85) can do. -/

namespace Sys2Proof.Machine

/-- `MarkDirty` writes the dirty rectangle and nothing else (R76). -/
theorem State.markBox_eq (s : State) (l t w h : Byte) :
    ∃ x y a b, s.markBox l t w h = s.setDirty x y a b := by
  unfold State.markBox
  split
  · exact ⟨s.dx, s.dy, s.dw, s.dh, rfl⟩
  · split
    · exact ⟨_, _, _, _, rfl⟩
    · exact ⟨_, _, _, _, rfl⟩

/-- A zero width or height is a no-op (R77). -/
theorem State.markBox_zero (s : State) (l t w h : Byte) (hz : w = 0 ∨ h = 0) : s.markBox l t w h = s := by
  simp only [State.markBox, if_pos hz]

/-- An empty rectangle adopts the box (R77). -/
theorem State.markBox_adopt (s : State) (l t w h : Byte) (hb : ¬(w = 0 ∨ h = 0)) (he : s.dw = 0 ∨ s.dh = 0) :
    s.markBox l t w h = s.setDirty l t w h := by
  simp only [State.markBox, if_neg hb, if_pos he]

/-- Otherwise the four edges are extended (R77). -/
theorem State.markBox_grow (s : State) (l t w h : Byte) (hb : ¬(w = 0 ∨ h = 0)) (he : ¬(s.dw = 0 ∨ s.dh = 0)) :
    s.markBox l t w h = s.setDirty (minByte s.dx l) (minByte s.dy t)
      (maxByte (s.dx + s.dw) (l + w) - minByte s.dx l) (maxByte (s.dy + s.dh) (t + h) - minByte s.dy t) := by
  simp only [State.markBox, if_neg hb, if_neg he]

section
variable (s : State) (l t w h : Byte)

@[simp] theorem State.markBox_width : (s.markBox l t w h).width = s.width := by
  obtain ⟨_, _, _, _, e⟩ := s.markBox_eq l t w h; rw [e]; rfl
@[simp] theorem State.markBox_height : (s.markBox l t w h).height = s.height := by
  obtain ⟨_, _, _, _, e⟩ := s.markBox_eq l t w h; rw [e]; rfl
@[simp] theorem State.markBox_curx : (s.markBox l t w h).curx = s.curx := by
  obtain ⟨_, _, _, _, e⟩ := s.markBox_eq l t w h; rw [e]; rfl
@[simp] theorem State.markBox_cury : (s.markBox l t w h).cury = s.cury := by
  obtain ⟨_, _, _, _, e⟩ := s.markBox_eq l t w h; rw [e]; rfl
@[simp] theorem State.markBox_mode : (s.markBox l t w h).mode = s.mode := by
  obtain ⟨_, _, _, _, e⟩ := s.markBox_eq l t w h; rw [e]; rfl
@[simp] theorem State.markBox_fonten : (s.markBox l t w h).fonten = s.fonten := by
  obtain ⟨_, _, _, _, e⟩ := s.markBox_eq l t w h; rw [e]; rfl
@[simp] theorem State.markBox_res : (s.markBox l t w h).res = s.res := by
  obtain ⟨_, _, _, _, e⟩ := s.markBox_eq l t w h; rw [e]; rfl
@[simp] theorem State.markBox_fault : (s.markBox l t w h).fault = s.fault := by
  obtain ⟨_, _, _, _, e⟩ := s.markBox_eq l t w h; rw [e]; rfl
@[simp] theorem State.markBox_fcode : (s.markBox l t w h).fcode = s.fcode := by
  obtain ⟨_, _, _, _, e⟩ := s.markBox_eq l t w h; rw [e]; rfl
@[simp] theorem State.markBox_cp : (s.markBox l t w h).cp = s.cp := by
  obtain ⟨_, _, _, _, e⟩ := s.markBox_eq l t w h; rw [e]; rfl
@[simp] theorem State.markBox_fb : (s.markBox l t w h).fb = s.fb := by
  obtain ⟨_, _, _, _, e⟩ := s.markBox_eq l t w h; rw [e]; rfl
@[simp] theorem State.markBox_fm : (s.markBox l t w h).fm = s.fm := by
  obtain ⟨_, _, _, _, e⟩ := s.markBox_eq l t w h; rw [e]; rfl
@[simp] theorem State.markBox_bm : (s.markBox l t w h).bm = s.bm := by
  obtain ⟨_, _, _, _, e⟩ := s.markBox_eq l t w h; rw [e]; rfl
@[simp] theorem State.markBox_cs : (s.markBox l t w h).cs = s.cs := by
  obtain ⟨_, _, _, _, e⟩ := s.markBox_eq l t w h; rw [e]; rfl
@[simp] theorem State.markBox_answers : (s.markBox l t w h).answers = s.answers := by
  obtain ⟨_, _, _, _, e⟩ := s.markBox_eq l t w h; rw [e]; rfl
@[simp] theorem State.markBox_transmissions : (s.markBox l t w h).transmissions = s.transmissions := by
  obtain ⟨_, _, _, _, e⟩ := s.markBox_eq l t w h; rw [e]; rfl
@[simp] theorem State.markBox_draws : (s.markBox l t w h).draws = s.draws := by
  obtain ⟨_, _, _, _, e⟩ := s.markBox_eq l t w h; rw [e]; rfl
@[simp] theorem State.markBox_w' : (s.markBox l t w h).w = s.w := by
  obtain ⟨_, _, _, _, e⟩ := s.markBox_eq l t w h; rw [e]; rfl
@[simp] theorem State.markBox_h' : (s.markBox l t w h).h = s.h := by
  obtain ⟨_, _, _, _, e⟩ := s.markBox_eq l t w h; rw [e]; rfl
@[simp] theorem State.markBox_pages' : (s.markBox l t w h).pages = s.pages := by
  obtain ⟨_, _, _, _, e⟩ := s.markBox_eq l t w h; rw [e]; rfl
@[simp] theorem State.markBox_fbSize' : (s.markBox l t w h).fbSize = s.fbSize := by
  obtain ⟨_, _, _, _, e⟩ := s.markBox_eq l t w h; rw [e]; rfl
end

section
variable (s : State) (l t w h : Int)

@[simp] theorem State.markDirty_width : (s.markDirty l t w h).width = s.width := by
  simp [State.markDirty]
@[simp] theorem State.markDirty_height : (s.markDirty l t w h).height = s.height := by
  simp [State.markDirty]
@[simp] theorem State.markDirty_curx : (s.markDirty l t w h).curx = s.curx := by
  simp [State.markDirty]
@[simp] theorem State.markDirty_cury : (s.markDirty l t w h).cury = s.cury := by
  simp [State.markDirty]
@[simp] theorem State.markDirty_mode : (s.markDirty l t w h).mode = s.mode := by
  simp [State.markDirty]
@[simp] theorem State.markDirty_fonten : (s.markDirty l t w h).fonten = s.fonten := by
  simp [State.markDirty]
@[simp] theorem State.markDirty_res : (s.markDirty l t w h).res = s.res := by
  simp [State.markDirty]
@[simp] theorem State.markDirty_fault : (s.markDirty l t w h).fault = s.fault := by
  simp [State.markDirty]
@[simp] theorem State.markDirty_fcode : (s.markDirty l t w h).fcode = s.fcode := by
  simp [State.markDirty]
@[simp] theorem State.markDirty_cp : (s.markDirty l t w h).cp = s.cp := by
  simp [State.markDirty]
@[simp] theorem State.markDirty_fb : (s.markDirty l t w h).fb = s.fb := by
  simp [State.markDirty]
@[simp] theorem State.markDirty_fm : (s.markDirty l t w h).fm = s.fm := by
  simp [State.markDirty]
@[simp] theorem State.markDirty_bm : (s.markDirty l t w h).bm = s.bm := by
  simp [State.markDirty]
@[simp] theorem State.markDirty_cs : (s.markDirty l t w h).cs = s.cs := by
  simp [State.markDirty]
@[simp] theorem State.markDirty_answers : (s.markDirty l t w h).answers = s.answers := by
  simp [State.markDirty]
@[simp] theorem State.markDirty_transmissions : (s.markDirty l t w h).transmissions = s.transmissions := by
  simp [State.markDirty]
@[simp] theorem State.markDirty_draws : (s.markDirty l t w h).draws = s.draws := by
  simp [State.markDirty]
@[simp] theorem State.markDirty_w' : (s.markDirty l t w h).w = s.w := by
  simp [State.markDirty]
@[simp] theorem State.markDirty_h' : (s.markDirty l t w h).h = s.h := by
  simp [State.markDirty]
@[simp] theorem State.markDirty_pages' : (s.markDirty l t w h).pages = s.pages := by
  simp [State.markDirty]
@[simp] theorem State.markDirty_fbSize' : (s.markDirty l t w h).fbSize = s.fbSize := by
  simp [State.markDirty]
end

section
variable (s : State)

@[simp] theorem State.transmit_width : s.transmit.2.width = s.width := by
  unfold State.transmit State.takeAnswer; split <;> rfl
@[simp] theorem State.transmit_height : s.transmit.2.height = s.height := by
  unfold State.transmit State.takeAnswer; split <;> rfl
@[simp] theorem State.transmit_curx : s.transmit.2.curx = s.curx := by
  unfold State.transmit State.takeAnswer; split <;> rfl
@[simp] theorem State.transmit_cury : s.transmit.2.cury = s.cury := by
  unfold State.transmit State.takeAnswer; split <;> rfl
@[simp] theorem State.transmit_dx : s.transmit.2.dx = s.dx := by
  unfold State.transmit State.takeAnswer; split <;> rfl
@[simp] theorem State.transmit_dy : s.transmit.2.dy = s.dy := by
  unfold State.transmit State.takeAnswer; split <;> rfl
@[simp] theorem State.transmit_dw : s.transmit.2.dw = s.dw := by
  unfold State.transmit State.takeAnswer; split <;> rfl
@[simp] theorem State.transmit_dh : s.transmit.2.dh = s.dh := by
  unfold State.transmit State.takeAnswer; split <;> rfl
@[simp] theorem State.transmit_mode : s.transmit.2.mode = s.mode := by
  unfold State.transmit State.takeAnswer; split <;> rfl
@[simp] theorem State.transmit_fonten : s.transmit.2.fonten = s.fonten := by
  unfold State.transmit State.takeAnswer; split <;> rfl
@[simp] theorem State.transmit_res : s.transmit.2.res = s.res := by
  unfold State.transmit State.takeAnswer; split <;> rfl
@[simp] theorem State.transmit_fault : s.transmit.2.fault = s.fault := by
  unfold State.transmit State.takeAnswer; split <;> rfl
@[simp] theorem State.transmit_fcode : s.transmit.2.fcode = s.fcode := by
  unfold State.transmit State.takeAnswer; split <;> rfl
@[simp] theorem State.transmit_cp : s.transmit.2.cp = s.cp := by
  unfold State.transmit State.takeAnswer; split <;> rfl
@[simp] theorem State.transmit_fb : s.transmit.2.fb = s.fb := by
  unfold State.transmit State.takeAnswer; split <;> rfl
@[simp] theorem State.transmit_fm : s.transmit.2.fm = s.fm := by
  unfold State.transmit State.takeAnswer; split <;> rfl
@[simp] theorem State.transmit_bm : s.transmit.2.bm = s.bm := by
  unfold State.transmit State.takeAnswer; split <;> rfl
@[simp] theorem State.transmit_cs : s.transmit.2.cs = s.cs := by
  unfold State.transmit State.takeAnswer; split <;> rfl
end

/-- Reducing a byte's own value changes nothing (R14). -/
@[simp] theorem wrap8_int (b : Byte) : wrap8 b.int = b := by
  unfold wrap8 Byte.int
  exact (BitVec.ofInt_natCast 8 b.toNat).trans (BitVec.ofNat_toNat ..|>.trans (BitVec.setWidth_eq b))

theorem toNat_minByte (a b : Byte) : (minByte a b).toNat = min a.toNat b.toNat := by
  unfold minByte
  split <;> omega

theorem toNat_maxByte (a b : Byte) : (maxByte a b).toNat = max a.toNat b.toNat := by
  unfold maxByte
  split <;> omega

end Sys2Proof.Machine
end

