-- ==== Sys2Proof/Machine/Assembler.lean ====
section
/-! DEFINITION. The textual form of commands (R74, R75): one command a line, comma-separated operands, `;` comments,
quoted strings or bracketed code lists. Text is a list of characters. -/

namespace Sys2Proof.Machine

/-- The tokens of a line. `bad` is text that is no token. -/
inductive AsmToken where
  | word (text : List Char)
  | number (v : Byte)
  | text (codes : List Byte)
  | comma | openBracket | closeBracket
  | bad
  deriving DecidableEq, Repr

/-- The mnemonics of R68. -/
def asmMnemonics : List (List Char × Opcode) :=
  [("MOVETO".toList, .moveto), ("SETMODE".toList, .setmode), ("SETFONT".toList, .setfont), ("CLEAR".toList, .clear),
   ("MARKDIRTY".toList, .markdirty), ("INVALIDATE".toList, .invalidate), ("VALIDATE".toList, .validate),
   ("FLUSH".toList, .flush)] ++
  [("PIXEL".toList, .pixel), ("LINETO".toList, .lineto), ("FRAMERECT".toList, .framerect),
   ("PAINTRECT".toList, .paintrect), ("FRAMEOVAL".toList, .frameoval), ("PAINTOVAL".toList, .paintoval)] ++
  [("CORNER".toList, .corner), ("FRAMERRECT".toList, .framerrect), ("PAINTRRECT".toList, .paintrrect)] ++
  [("WIDTHC".toList, .widthc), ("WIDTHS".toList, .widths), ("DRAWCHAR".toList, .drawchar),
   ("DRAWSTR".toList, .drawstr)]

/-- The value of a digit in base `base`, or none. -/
def asmDigit (base : Nat) (c : Char) : Option Nat :=
  let n := c.toNat
  let v := if 48 ≤ n ∧ n ≤ 57 then some (n - 48)
    else if 65 ≤ n ∧ n ≤ 70 then some (n - 55)
    else if 97 ≤ n ∧ n ≤ 102 then some (n - 87)
    else none
  match v with
  | some d => if d < base then some d else none
  | none => none

/-- The number a digit string denotes, added to `acc`. -/
def asmDigits (base : Nat) : List Char → Nat → Option Nat
  | [], acc => some acc
  | c :: cs, acc =>
    match asmDigit base c with
    | some d => asmDigits base cs (acc * base + d)
    | none => none

/-- A literal of R74: decimal or `0x` hexadecimal, in 0..255. -/
def asmNumber (cs : List Char) : Option Byte :=
  let v := match cs with
    | '0' :: 'x' :: d :: ds => asmDigits 16 (d :: ds) 0
    | d :: ds => asmDigits 10 (d :: ds) 0
    | [] => none
  match v with
  | some n => if n ≤ 255 then some (BitVec.ofNat 8 n) else none
  | none => none

/-- The token of a run of characters without separators: a number where it begins with a digit, else a word. -/
def asmWord (cs : List Char) : AsmToken :=
  match cs with
  | [] => .bad
  | c :: _ =>
    if (asmDigit 10 c).isSome then
      match asmNumber cs with
      | some v => .number v
      | none => .bad
    else .word cs

/-- What the lexer has read and not yet emitted: nothing, a word, the inside of a quoted string. -/
inductive LexState where
  | idle
  | word (acc : List Char)
  | quoted (acc : List Byte)
  deriving DecidableEq, Repr

/-- A character of a quoted string: printable ASCII other than `"` and `\` (R74). -/
def asmStringChar (c : Char) : Bool := 32 ≤ c.toNat && c.toNat ≤ 126 && c != '"' && c != '\\'

/-- The tokens a pending word gives when it ends. -/
def LexState.flush : LexState → List AsmToken
  | .idle => []
  | .word acc => [asmWord acc.reverse]
  | .quoted _ => [.bad]

/-- The tokens of one line (R74). -/
def asmLex : List Char → LexState → List AsmToken
  | [], st => st.flush
  | c :: cs, .quoted acc =>
    if c = '"' then .text acc.reverse :: asmLex cs .idle
    else if asmStringChar c then asmLex cs (.quoted (BitVec.ofNat 8 c.toNat :: acc))
    else [.bad]
  | c :: cs, .idle =>
    if c = ';' then []
    else if c = ' ' ∨ c = '\t' ∨ c = '\r' then asmLex cs .idle
    else if c = ',' then .comma :: asmLex cs .idle
    else if c = '[' then .openBracket :: asmLex cs .idle
    else if c = ']' then .closeBracket :: asmLex cs .idle
    else if c = '"' then asmLex cs (.quoted [])
    else asmLex cs (.word [c])
  | c :: cs, .word acc =>
    if c = ';' then [asmWord acc.reverse]
    else if c = ' ' ∨ c = '\t' ∨ c = '\r' then asmWord acc.reverse :: asmLex cs .idle
    else if c = ',' then asmWord acc.reverse :: .comma :: asmLex cs .idle
    else if c = '[' then asmWord acc.reverse :: .openBracket :: asmLex cs .idle
    else if c = ']' then asmWord acc.reverse :: .closeBracket :: asmLex cs .idle
    else if c = '"' then asmWord acc.reverse :: asmLex cs (.quoted [])
    else asmLex cs (.word (c :: acc))

/-- Numbers separated by commas, at least one. -/
def asmNumbers : List AsmToken → Option (List Byte)
  | [.number v] => some [v]
  | .number v :: .comma :: rest =>
    match asmNumbers rest with
    | some vs => some (v :: vs)
    | none => none
  | _ => none

/-- A bracketed list of codes, its opening bracket already read (R74). -/
def asmBracket (ts : List AsmToken) : Option (List Byte) :=
  match ts.getLast? with
  | some .closeBracket => if ts.length = 1 then some [] else asmNumbers ts.dropLast
  | _ => none

/-- The operand of WIDTHS and DRAWSTR (R74): a quoted string or a bracketed list, at most 255 codes (R120). -/
def asmString (ts : List AsmToken) : Option (List Byte) :=
  let codes := match ts with
    | [.text codes] => some codes
    | .openBracket :: rest => asmBracket rest
    | _ => none
  match codes with
  | some cs => if cs.length ≤ 255 then some cs else none
  | none => none

/-- The operand of SETMODE by name (R74). -/
def asmModeName (ts : List AsmToken) : Option Byte :=
  match ts with
  | [.word t] =>
    if t = "SET".toList then some 0 else if t = "CLEAR".toList then some 1
    else if t = "INVERT".toList then some 2 else none
  | _ => none

/-- The operand bytes of a command that is not of format S. -/
def asmOperands (op : Opcode) (ts : List AsmToken) : Option (List Byte) :=
  match ts with
  | [] => some []
  | _ =>
    match asmNumbers ts with
    | some vs => some vs
    | none =>
      if op = .setmode then
        match asmModeName ts with
        | some m => some [m]
        | none => none
      else none

/-- The command a line's tokens stand for (R74). -/
def asmCommand (op : Opcode) (ts : List AsmToken) : Option Instr :=
  match op with
  | .widths => (asmString ts).map Instr.widths
  | .drawstr => (asmString ts).map Instr.drawstr
  | _ =>
    match asmOperands op ts, opcodeMap.find? (fun r => r.op == op) with
    | some vs, some row => if vs.length = formatOperands row.format then assembleOperands op vs else none
    | _, _ => none

/-- Assemble one line (R74): the command it stands for, nothing for a line without a command, or an error. -/
def assembleLine (line : List Char) : Except Unit (Option Instr) :=
  match asmLex line .idle with
  | [] => .ok none
  | .word m :: ts =>
    match asmMnemonics.find? (fun e => e.1 == m) with
    | some e =>
      match asmCommand e.2 ts with
      | some i => .ok (some i)
      | none => .error ()
    | none => .error ()
  | _ => .error ()

/-- The lines of a text. -/
def asmLines : List Char → List Char → List (List Char)
  | [], acc => [acc.reverse]
  | c :: cs, acc => if c = '\n' then acc.reverse :: asmLines cs [] else asmLines cs (c :: acc)

/-- The bytes of a sequence of lines. -/
def assembleLines : List (List Char) → Except Unit (List Byte)
  | [] => .ok []
  | l :: ls =>
    match assembleLine l, assembleLines ls with
    | .ok none, .ok bs => .ok bs
    | .ok (some i), .ok bs => .ok (encode i ++ bs)
    | _, _ => .error ()

/-- Assemble a text (R74, R75): every line is one command, so the stream is the commands' bytes in order. -/
def assemble (text : String) : Except Unit (List Byte) := assembleLines (asmLines text.toList [])

end Sys2Proof.Machine
end

