-- ==== Sys2Proof/Tests/Slice0.lean ====
section
/-! SUPPORT. The model's own tests. Expected results are those of `spec/95_test_vectors.md` (`V-…`) or of the rule's
own example, named at each test; then one witness for every obligation that has hypotheses. -/

namespace Sys2Proof.Tests

open Sys2Proof.Machine

set_option maxRecDepth 8000

/-! ## Helpers -/

/-- Reset on a `w × h` display with the given font, bitmap and stream, and a blank framebuffer. -/
def display (w : Byte) (h : Height) (fm bm cs : List Byte) : State :=
  { State.afterReset ⟨w, h, Rom.ofBytes fm, Rom.ofBytes bm, Rom.ofBytes cs, []⟩ 0 with fb := ⟨.zero, []⟩ }

/-- Blank 16×16 in SET mode, no font: the spec's usual premise. -/
def blank16 : State := display 16 .h16 [] [] []

/-- Blank 16×16 with a command stream. -/
def stream16 (cs : List Byte) : State := display 16 .h16 [] [] cs

/-- `FM` of the test font F1. -/
def f1 : List Byte :=
  [0x41, 0x43, 0x08, 0x00] ++ [0x00, 0x00, 0x03, 0x05, 0x06, 0x01, 0x00] ++ [0x00, 0x00, 0x00, 0x00, 0x03, 0x00, 0x00] ++
  [0x0F, 0x00, 0x02, 0x02, 0x03, 0xFF, 0xFE]

/-- Blank 16×16 with font F1 attached and the cursor at `(x, y)`. -/
def text16 (x y : Byte) : State :=
  { display 16 .h16 f1 [0x57, 0xDB, 0x20] [] with fonten := true, curx := x, cury := y }

/-- The next state of an outcome. -/
def nextOf (o : Host.Outcome State Fault Refusal) : Option State :=
  match o with
  | .next t => some t
  | .fault _ => none
  | .refused _ => none

/-- The bytes `FB[a .. a + n - 1]`. -/
def fbBytes (s : State) (a n : Nat) : List Byte := (List.range n).map fun k => s.fb.read (a + k)

/-- The dirty rectangle and the bytes `FB[a .. a + n - 1]` after a command. -/
def drawn (i : Instr) (s : State) (a n : Nat) : Option ((Byte × Byte × Byte × Byte) × List Byte) :=
  (nextOf (exec i s)).map fun t => (t.dirty, fbBytes t a n)

/-- `FAULT`, `FCODE`, `CP` after a command. -/
def faultOf (i : Instr) (s : State) : Option (Bool × BitVec 3 × Half) :=
  (nextOf (exec i s)).map fun t => (t.fault, t.fcode, t.cp)

/-! ## WellFormed: a term each check refuses, and one it accepts -/

theorem test_wf_widths_too_long : (Instr.widths (List.replicate 256 0)).encodable = false := by decide
theorem test_wf_drawstr_too_long : (Instr.drawstr (List.replicate 256 0)).encodable = false := by decide
theorem test_wf_drawstr_longest : (Instr.drawstr (List.replicate 255 0)).wellFormed = true := by decide
theorem test_wf_setmode : (Instr.setmode 3).wellFormed = false ∧ (Instr.setmode 2).wellFormed = true := by decide
theorem test_wf_setfont : (Instr.setfont 2).wellFormed = false ∧ (Instr.setfont 1).wellFormed = true := by decide
theorem test_wf_corner :
    (Instr.corner 8 8 4 0x20).wellFormed = false ∧ (Instr.corner 8 8 4 0x1F).wellFormed = true := by decide

/-! ## Decode: one word per constructor (V-ENC-1 to V-ENC-20) -/

theorem test_decode_moveto : decode [0x10, 0xC8, 0x64] = .ok (.moveto 200 100) := by rfl
theorem test_decode_setmode : decode [0x11, 0x02] = .ok (.setmode 2) := by rfl
theorem test_decode_setfont : decode [0x12, 0x01] = .ok (.setfont 1) := by rfl
theorem test_decode_clear : decode [0x13] = .ok .clear := by rfl
theorem test_decode_markdirty : decode [0x20, 0x0A, 0x0B, 0x05, 0x06] = .ok (.markdirty 10 11 5 6) := by rfl
theorem test_decode_invalidate : decode [0x21] = .ok .invalidate := by rfl
theorem test_decode_validate : decode [0x22] = .ok .validate := by rfl
theorem test_decode_flush : decode [0x23] = .ok .flush := by rfl
theorem test_decode_pixel : decode [0x30, 0x03, 0x09] = .ok (.pixel 3 9) := by rfl
theorem test_decode_lineto : decode [0x31, 0x7F, 0x3F] = .ok (.lineto 127 63) := by rfl
theorem test_decode_framerect : decode [0x32, 0x02, 0x03, 0x04, 0x05] = .ok (.framerect 2 3 4 5) := by rfl
theorem test_decode_paintrect : decode [0x33, 0x01, 0x06, 0x02, 0x04] = .ok (.paintrect 1 6 2 4) := by rfl
theorem test_decode_frameoval : decode [0x40, 0x01, 0x02, 0x07, 0x05] = .ok (.frameoval 1 2 7 5) := by rfl
theorem test_decode_paintoval : decode [0x41, 0x3C, 0x14, 0x09, 0x10] = .ok (.paintoval 60 20 9 16) := by rfl
theorem test_decode_corner : decode [0x42, 0x08, 0x09, 0x04, 0x1F] = .ok (.corner 8 9 4 0x1F) := by rfl
theorem test_decode_framerrect : decode [0x43, 0x02, 0x03, 0x14, 0x0A, 0x05] = .ok (.framerrect 2 3 20 10 5) := by rfl
theorem test_decode_paintrrect : decode [0x44, 0x02, 0x03, 0x14, 0x0A, 0x05] = .ok (.paintrrect 2 3 20 10 5) := by rfl
theorem test_decode_widthc : decode [0x50, 0x43] = .ok (.widthc 0x43) := by rfl
theorem test_decode_widths : decode [0x51, 0x04, 0x41, 0x42, 0x43, 0x44] = .ok (.widths [0x41, 0x42, 0x43, 0x44]) := by
  rfl
theorem test_decode_drawchar : decode [0x52, 0x41] = .ok (.drawchar 0x41) := by rfl
theorem test_decode_drawstr : decode [0x53, 0x02, 0x48, 0x69, 0x13] = .ok (.drawstr [0x48, 0x69]) := by rfl
theorem test_decode_drawstr_empty : decode [0x53, 0x00] = .ok (.drawstr []) := by rfl

/-- The 235 illegal opcode bytes of R69 are exactly those the decoder refuses as opcodes. -/
theorem test_decode_illegal : (List.range 256).countP (fun b => (opcodeRow? (BitVec.ofNat 8 b)).isNone) = 235 := by
  decide

/-- No two rows of the opcode map share an opcode byte. -/
theorem test_opcode_map_unambiguous : opcodeMap.Pairwise fun a b => a.code ≠ b.code := by decide

/-- V-FLT-4, V-FLT-5: a missing count byte, a string shorter than its count. -/
theorem test_decode_truncated :
    decode [0x53] = .error .truncated ∧ decode [0x53, 0x03, 0x41, 0x41] = .error .truncated := ⟨rfl, rfl⟩

/-- Byte 0 of a table word is its least significant byte; bits the table does not give are 0. -/
theorem test_table_word :
    decodeTableWord 24 0x64C810 = some (.moveto 200 100) ∧ decodeTableWord 8 0x51 = some (.widths []) := by decide

/-- A table word placed at `CP` is what the next step runs, from reset (V-FLT-11's state before it). -/
theorem test_fetch_word :
    (nextOf (step (State.reset.withFetchWord 24 0x64C810))).map (fun t => (t.curx, t.cury, t.cp)) =
      some (200, 100, 3) := by decide

/-- V-ENC-2, V-ENC-15, V-ENC-17, V-ENC-20 in text form (R74, R75). -/
theorem test_assemble :
    assemble "SETMODE INVERT\nPAINTRRECT 2, 3, 20, 10, 0x05 ; filled\nWIDTHS \"ABCD\"\nDRAWSTR []" =
      .ok ([0x11, 0x02, 0x44, 0x02, 0x03, 0x14, 0x0A, 0x05] ++ [0x51, 0x04, 0x41, 0x42, 0x43, 0x44, 0x53, 0x00]) := by
  rfl

/-! ## Control (R127 to R130) -/

theorem test_moveto :
    (nextOf (exec (.moveto 200 100) blank16)).map (fun t => (t.curx, t.cury, t.dirty)) =
      some (200, 100, (0, 0, 0, 0)) := by decide
theorem test_setmode : (nextOf (exec (.setmode 2) blank16)).map (·.mode) = some .invert := by decide
/-- V-CTRL-2 -/
theorem test_setmode_reserved : faultOf (.setmode 3) blank16 = some (true, 2, 0) := by decide
theorem test_setfont : (nextOf (exec (.setfont 1) blank16)).map (·.fonten) = some true := by decide
/-- V-FLT-8 -/
theorem test_setfont_reserved : faultOf (.setfont 2) blank16 = some (true, 2, 0) := by decide
/-- V-CTRL-1: CLEAR writes 0 in INVERT mode and leaves mode and cursor. -/
theorem test_clear :
    (nextOf (exec .clear { blank16 with fb := ⟨.zero, [(3, 0xAA)]⟩, mode := .invert, curx := 200 })).map
      (fun t => (t.dirty, t.fb, t.mode, t.curx)) = some ((0, 0, 16, 16), ⟨.zero, []⟩, .invert, 200) := by decide

/-! ## Tracker and FLUSH (R77 to R85) -/

/-- V-DIRTY-1, step 3. -/
theorem test_markdirty :
    (nextOf (exec (.markdirty 12 2 1 1) (blank16.setDirty 10 10 5 5))).map State.dirty = some (10, 2, 5, 13) := by decide
/-- V-DIRTY-3: the edge sums wrap. -/
theorem test_markdirty_wraps :
    (nextOf (exec (.markdirty 20 0 246 1) (blank16.setDirty 10 0 250 1))).map State.dirty = some (10, 0, 0, 1) := by decide
/-- V-DIRTY-5 -/
theorem test_invalidate :
    (nextOf (exec .invalidate (display 128 .h64 [] [] []))).map State.dirty = some (0, 0, 128, 64) := by decide
theorem test_validate : (nextOf (exec .validate (blank16.setDirty 1 4 4 5))).map State.dirty = some (0, 0, 0, 0) := by
  decide
/-- V-DIRTY-6 (b) -/
theorem test_flush_succeeds :
    (nextOf (exec .flush { blank16.setDirty 0 0 16 16 with answers := [true, false] })).map
      (fun t => (t.dirty, t.res, t.answers, t.transmissions.length)) = some ((0, 0, 0, 0), 1, [false], 1) := by decide
/-- V-DIRTY-6 (c) -/
theorem test_flush_fails :
    (nextOf (exec .flush { blank16.setDirty 0 0 16 16 with answers := [false] })).map
      (fun t => (t.dirty, t.res, t.transmissions.map Transmission.dw)) =
        some ((0, 0, 16, 16), 0, [16]) := by decide

/-! ## Sink, pixels, lines, rectangles (R41 to R46, R89 to R99) -/

/-- V-SINK-8: an INVERT run over four pages. -/
theorem test_vrun :
    ((SinkCall.vrun 1 5 26).run { display 4 .h32 [] [] [] with mode := .invert, fb :=
        ⟨.zero, [(1, 0xA5), (5, 0xA5), (9, 0xA5), (13, 0xA5)]⟩ }).toOption.map
      (fun t => [t.fb.read 1, t.fb.read 5, t.fb.read 9, t.fb.read 13]) = some [0x45, 0x5A, 0x5A, 0xA2] := by decide
/-- V-SINK-2, V-SINK-9, V-SINK-16 -/
theorem test_sink_calls :
    let s := display 4 .h32 [] [] []
    ((SinkCall.vrun 1 0 7).run s).toOption.map (fun t => fbBytes t 0 4) = some [0, 0xFF, 0, 0] ∧
    ((SinkCall.hrun 0 3 9).run s).toOption.map (fun t => fbBytes t 4 4) = some [2, 2, 2, 2] ∧
    ((SinkCall.pixel 256 0).run s).toOption.map (fun t => fbBytes t 0 2) = some [1, 0] ∧
    ((SinkCall.pixel 260 0).run s).toOption.isNone = true := by decide
/-- V-PIX-1 -/
theorem test_pixel : drawn (.pixel 3 9) blank16 18 3 = some ((3, 9, 1, 1), [0, 2, 0]) := by decide
/-- V-LINE-3: the strict tie break. -/
theorem test_lineto_tie : lineCalls 0 0 2 1 = [.pixel 0 0, .pixel 1 0, .pixel 2 1] := by decide
/-- V-LINE-9 -/
theorem test_lineto :
    drawn (.lineto 4 9) { blank16 with curx := 1, cury := 1 } 0 21 =
      some ((1, 1, 4, 9), [0, 6, 0x38, 0xC0] ++ List.replicate 16 0 ++ [3]) := by decide
/-- V-RECT-1 -/
theorem test_framerect :
    drawn (.framerect 2 2 4 3) blank16 0 8 = some ((2, 2, 4, 3), [0, 0, 0x1C, 0x14, 0x14, 0x1C, 0, 0]) := by decide
/-- V-RECT-9 -/
theorem test_paintrect :
    drawn (.paintrect 1 6 2 4) blank16 0 20 =
      some ((1, 6, 2, 4), [0, 0xC0, 0xC0, 0] ++ List.replicate 13 0 ++ [3, 3, 0]) := by decide
/-- V-RECT-13 -/
theorem test_paintrect_off_display : faultOf (.paintrect 14 0 3 1) blank16 = some (true, 3, 0) := by decide

/-! ## Ovals (R101 to R106) -/

/-- V-OVAL-F17 -/
theorem test_frameoval :
    drawn (.frameoval 1 1 7 5) blank16 0 9 = some ((1, 1, 7, 5), [0, 8, 0x14, 0x22, 0x22, 0x22, 0x14, 8, 0]) := by decide
/-- The call sequence of the 3×3 frame, in the order of R103 and R104. -/
theorem test_frameoval_calls :
    ovalCalls false 0 0 3 3 =
      [.pixel 2 1, .pixel 0 1, .pixel 0 1, .pixel 2 1, .pixel 1 2, .pixel 1 2, .pixel 1 0, .pixel 1 0,
       .pixel 1 2, .pixel 1 2, .pixel 1 0, .pixel 1 0] := by decide
/-- V-OVAL-P17 -/
theorem test_paintoval :
    drawn (.paintoval 1 1 7 5) blank16 0 9 = some ((1, 1, 7, 5), [0, 8, 0x1C, 0x3E, 0x3E, 0x3E, 0x1C, 8, 0]) := by decide
/-- The call sequence of the 3×3 fill. -/
theorem test_paintoval_calls :
    ovalCalls true 0 0 3 3 =
      [.vrun 2 1 1, .vrun 0 1 1, .vrun 0 1 1, .vrun 2 1 1, .vrun 1 1 2, .vrun 1 1 2, .vrun 1 0 1, .vrun 1 0 1,
       .pixel 1 2, .pixel 1 2, .pixel 1 0, .pixel 1 0] := by decide

/-! ## Corners and rounded rectangles (R110 to R118) -/

/-- V-COR-5, with its two dirty boxes united. -/
theorem test_corner :
    cornerCalls 8 8 4 0x05 = [.pixel 4 7, .pixel 12 9, .pixel 5 6, .pixel 11 10, .pixel 6 5, .pixel 10 11, .pixel 7 4,
      .pixel 9 12] ∧
    (nextOf (exec (.corner 8 8 4 0x05) blank16)).map State.dirty = some (4, 4, 9, 9) := by decide
/-- V-COR-9, V-FLT-7 -/
theorem test_corner_fill :
    cornerCalls 8 8 4 0x14 = [.vrun 12 9 9, .vrun 11 9 10, .vrun 10 9 11, .vrun 9 9 12] ∧
    faultOf (.corner 8 8 4 0x20) blank16 = some (true, 2, 0) := by decide
/-- V-RR-18 -/
theorem test_framerrect :
    roundRectCalls false 1 1 7 5 (clampRadius 7 5 2) =
      [.pixel 1 2, .pixel 2 1, .pixel 7 2, .pixel 6 1, .pixel 7 4, .pixel 6 5, .pixel 1 4, .pixel 2 5,
       .hrun 3 5 1, .hrun 3 5 5, .vrun 1 3 3, .vrun 7 3 3] := by decide
/-- V-RR-15: the clamp to 0 gives the plain frame. -/
theorem test_framerrect_clamped :
    drawn (.framerrect 1 1 1 7 3) blank16 0 18 =
      some ((1, 1, 1, 7), [0, 0xFE] ++ List.replicate 14 0 ++ [0, 0]) := by decide
/-- V-RR-19, its first corner runs and its bands. -/
theorem test_paintrrect :
    roundRectCalls true 1 1 7 5 (clampRadius 7 5 2) =
      [.vrun 1 2 2, .vrun 2 1 2, .vrun 7 2 2, .vrun 6 1 2, .vrun 7 4 4, .vrun 6 4 5, .vrun 1 4 4, .vrun 2 4 5] ++
      [.vrun 3 1 2, .vrun 4 1 2, .vrun 5 1 2] ++
      [.vrun 1 3 3, .vrun 2 3 3, .vrun 3 3 3, .vrun 4 3 3, .vrun 5 3 3, .vrun 6 3 3, .vrun 7 3 3] ++
      [.vrun 3 4 5, .vrun 4 4 5, .vrun 5 4 5] := by decide
/-- V-RR-2, its first 22 bytes, with the radius clamped from 100. -/
theorem test_paintrrect_bytes :
    drawn (.paintrrect 2 3 20 10 100) (display 32 .h16 [] [] []) 0 22 =
      some ((2, 3, 20, 10), [0, 0, 0xC0, 0xE0, 0xF0] ++ List.replicate 14 0xF8 ++ [0xF0, 0xE0, 0xC0]) := by decide

/-! ## Text (R121 to R125) -/

/-- V-TEXT-1, V-TEXT-2 -/
theorem test_widthc :
    [0x41, 0x42, 0x43, 0x44, 0x40].map (fun c => (nextOf (exec (.widthc c) (text16 0 0))).map (·.res)) =
      [some 6, some 3, some 3, some 0, some 0] := by decide
/-- V-TEXT-20 -/
theorem test_widthc_font_range : faultOf (.widthc 0x41) { blank16 with fonten := true } = some (true, 4, 0) := by decide
/-- V-TEXT-4 -/
theorem test_widths :
    (nextOf (exec (.widths [0x41, 0x42, 0x43, 0x44]) (text16 0 0))).map (fun t => (t.res, t.cp)) = some (12, 6) := by
  decide
theorem test_widths_longest :
    (nextOf (exec (.widths (List.replicate 255 0x41)) (text16 0 0))).map (fun t => (t.readPort 0x0B, t.readPort 0x0C)) =
      some (0xFA, 0x05) := by decide
/-- V-TEXT-5 -/
theorem test_drawchar :
    drawn (.drawchar 0x41) (text16 0 0) 0 5 = some ((1, 0, 3, 5), [0, 0x1E, 5, 0x1E, 0]) ∧
    (nextOf (exec (.drawchar 0x41) (text16 0 0))).map (fun t => (t.curx, t.cury)) = some (6, 0) := by decide
/-- V-TEXT-7: negative offsets; V-TEXT-12: they wrap, and the first set bit is off the display. -/
theorem test_drawchar_offsets :
    drawn (.drawchar 0x43) (text16 10 4) 8 4 = some ((9, 2, 2, 2), [0, 4, 8, 0]) ∧
    faultOf (.drawchar 0x43) (text16 0 0) = some (true, 3, 0) := by decide
/-- V-TEXT-17 -/
theorem test_drawstr :
    drawn (.drawstr [0x41, 0x42, 0x43, 0x44]) (text16 2 4) 0 12 =
      some ((3, 2, 9, 7), [0, 0, 0, 0xE0, 0x50, 0xE0, 0, 0, 0, 0, 4, 8]) := by decide
/-- V-TEXT-16: the cursor wraps. -/
theorem test_drawstr_cursor_wraps :
    (nextOf (exec (.drawstr [0x42]) (text16 254 3))).map (fun t => (t.curx, t.cury, t.dirty)) =
      some (1, 3, (0, 0, 0, 0)) := by decide

/-! ## Steps, faults, reset -/

/-- V-FLT-1, V-FLT-3: a precise fault of the step itself. -/
theorem test_illegal_command :
    nextOf (step { stream16 [0x13, 0x00, 0x13] with cp := 1 }) =
      some { stream16 [0x13, 0x00, 0x13] with cp := 1, fault := true, fcode := 1 } ∧
    (nextOf (step { stream16 [0x13, 0x31, 0x05] with cp := 1 })).map State.status = some 3 := by decide
/-- V-FLT-10: `FontRange` in the middle of a glyph; only `FAULT`, `FCODE` and `CP` are looked at. -/
theorem test_font_range :
    faultOf (.drawchar 0x43) { text16 1 2 with bm := Rom.ofBytes [0x57, 0xDB], cp := 5 } = some (true, 4, 5) := by decide
/-- V-FLT-11: the reset state over an empty stream is final, and there is no step. -/
theorem test_empty_stream_is_final :
    (stream16 []).isFinal = true ∧ nextOf (step (stream16 [])) = none := by decide
/-- V-RST-1 -/
theorem test_reset_port :
    (List.range 14).map (fun a => State.reset.readPort (BitVec.ofNat 8 a)) =
      [0x80, 0x40, 0x08, 0, 0, 0, 0] ++ [0, 0, 0, 0, 0, 0, 0] := by decide

/-- R23, R147: a reset asserted in a faulted state keeps the size, clears the fault and takes the next run's stream. -/
theorem test_reset_keeps_the_size :
    let t := (blank16.setFault .sinkRange).reassertReset (Rom.ofBytes []) (Rom.ofBytes []) (Rom.ofBytes [0x13]) [true]
    (List.range 14).map (fun a => t.readPort (BitVec.ofNat 8 a)) =
      [0x10, 0x10, 0x02, 0, 0, 0, 0] ++ [0, 0, 0, 0, 0, 0, 0] ∧ t.cs.read 0 = some 0x13 ∧ t.isFinal = false := by decide

/-! ## Witnesses: a concrete state and operands that meet the hypotheses of each obligation -/

/-- A state that has faulted. -/
def faulted16 : State := blank16.setFault .sinkRange

/-- A drawing command of every shape, on the display at its far corner. -/
def shapes16 : List Instr :=
  [.pixel 15 15, .lineto 15 15, .framerect 12 13 4 3, .paintrect 0 0 16 16, .frameoval 12 13 4 3, .paintoval 0 0 16 16] ++
  [.corner 8 8 7 0x1F, .framerrect 12 13 4 3 1, .paintrrect 0 0 16 16 255]

/-- Shapes of which a part lies off the display. -/
def shapesOff16 : List Instr :=
  [.pixel 16 15, .lineto 15 16, .framerect 13 13 4 3, .paintrect 0 0 16 17, .frameoval 12 14 4 3, .paintoval 1 0 16 16] ++
  [.corner 8 8 8 0x1F, .framerrect 13 13 4 3 1, .paintrrect 0 1 16 16 255]

theorem witness_DecodeOfEncodeIsIdentity :
    (Instr.widths (List.replicate 255 0x41)).encodable = true ∧ (Instr.corner 1 2 3 255).encodable = true := by decide

theorem witness_EncodeOfDecodeIsTheBytesRead : decode [0x53, 0x01, 0x41, 0x13] = .ok (.drawstr [0x41]) := by rfl

theorem witness_IllegalCommandIsTakenPrecisely :
    [0x00, 0x0F, 0x14, 0x1F, 0x24, 0x2F, 0x34, 0x3F, 0x45, 0x4F, 0x54, 0xFF].all (fun b =>
      let s := stream16 [b]
      !s.fault && s.admitted && decide (s.cp.toNat < s.cs.size) && s.cs.read s.cp.toNat == some b &&
        (opcodeRow? b).isNone) = true ∧
    [[0x53], [0x53, 0x02, 0x41], [0x31, 0x05], [0x44, 1, 2, 3, 4]].all (fun bs => !(stream16 bs).commandPresent) = true ∧
    [[0x53, 0x00], [0x53, 0x02, 0x41, 0x42], [0x13], [0x44, 1, 2, 3, 4, 5]].all (fun bs =>
      (stream16 bs).commandPresent) = true := by decide

theorem witness_StepRunsTheDecodedCommand :
    let s := stream16 [0x53, 0x02, 0x41, 0x42]
    s.fault = false ∧ s.admitted = true ∧ s.cp.toNat < s.cs.size ∧ decode s.fetchBytes = .ok (.drawstr [0x41, 0x42]) ∧
    (Instr.drawstr [0x41, 0x42]).encodable = true ∧
    ∀ k, k < 4 → s.cs.read (s.cp.toNat + k) = (encode (.drawstr [0x41, 0x42]))[k]? :=
  ⟨rfl, rfl, by decide, rfl, rfl, by decide⟩

theorem witness_StepIsDefinedExactlyBeforeTheEnd :
    faulted16.fault = true ∧ (blank16.fault = false ∧ blank16.admitted = true ∧ blank16.cp.toNat = blank16.cs.size) ∧
    ((stream16 [0]).fault = false ∧ (stream16 [0]).admitted = true ∧ (stream16 [0]).cp.toNat < (stream16 [0]).cs.size) := by
  decide

/-- A step that completes and a step that faults. -/
theorem witness_StepsMoveForwardAndKeepTheParameters :
    (nextOf (step (stream16 [0x13]))).map (·.fault) = some false ∧
    (nextOf (step (stream16 [0x00]))).map (·.fault) = some true := by decide

theorem witness_ResetMeetsTheInvariant :
    RunParams.admitted ⟨1, .h8, ⟨0, []⟩, ⟨65536, []⟩, ⟨65535, []⟩, []⟩ = true ∧
    RunParams.admitted ⟨255, .h128, ⟨65536, []⟩, ⟨0, []⟩, ⟨0, []⟩, [true]⟩ = true := by decide

/-- The invariant holds of a state with a picture, and a step runs from it. -/
theorem witness_StepKeepsTheInvariant :
    State.Inv { stream16 [0x30, 3, 9] with fb := ⟨.zero, [(19, 2)]⟩ } ∧
    (nextOf (step { stream16 [0x30, 3, 9] with fb := ⟨.zero, [(19, 2)]⟩ })).isSome = true :=
  ⟨⟨by decide, by decide, by decide, by decide, .inl ⟨rfl, rfl⟩, (fun _ h => nomatch h)⟩, by decide⟩

theorem witness_RunsAreFinite : State.Inv (stream16 [0x13, 0x00]) :=
  ⟨by decide, by decide, (fun _ h => nomatch h), by decide, .inl ⟨rfl, rfl⟩, (fun _ h => nomatch h)⟩

theorem witness_OnlyResetClearsAFault : faulted16.fault = true := by rfl

/-- Both ends of each reserved range, and a legal command that faults. -/
theorem witness_ReservedOperandsRaiseIllegalOperand :
    [3, 255].map (fun m => faultOf (.setmode m) blank16) = [some (true, 2, 0), some (true, 2, 0)] ∧
    [2, 255].map (fun en => faultOf (.setfont en) blank16) = [some (true, 2, 0), some (true, 2, 0)] ∧
    [32, 255].map (fun m => faultOf (.corner 8 8 4 m) blank16) = [some (true, 2, 0), some (true, 2, 0)] ∧
    (Instr.pixel 16 0).legalOperands = true ∧ faultOf (.pixel 16 0) blank16 = some (true, 3, 0) := by decide

theorem witness_FaultEntryStopsTheEngine :
    blank16.fault = false ∧ faultOf (.setmode 3) blank16 = some (true, 2, 0) ∧
    faultOf (.drawchar 0x43) (text16 0 0) = some (true, 3, 0) := by decide

/-- Two states that differ in everything the statement lets differ, with and without a fault. -/
theorem witness_FaultsDependOnGeometryAndFontOnly :
    let s' := { blank16.setDirty 1 1 3 3 with fb := ⟨.free 0, []⟩, mode := .invert, res := 7, answers := [true] }
    blank16.width = s'.width ∧ blank16.height = s'.height ∧ blank16.curx = s'.curx ∧ blank16.fm = s'.fm ∧
    s'.fault = false ∧ blank16.fcode = s'.fcode ∧
    faultOf (.framerect 1 1 3 3) blank16 = some (false, 0, 5) ∧ faultOf (.framerect 1 1 3 3) s' = some (false, 0, 5) ∧
    faultOf (.pixel 16 0) blank16 = some (true, 3, 0) ∧ faultOf (.pixel 16 0) s' = some (true, 3, 0) :=
  ⟨rfl, rfl, rfl, rfl, rfl, rfl, by decide, by decide, by decide, by decide⟩

/-- Every command is disciplined somewhere. -/
theorem witness_DisciplinedCommandsRaiseNoFault :
    ([Instr.moveto 200 200, .setmode 2, .setfont 1, .clear, .markdirty 255 255 255 255, .invalidate, .validate, .flush] ++
      shapes16 ++ [Instr.framerect 200 200 0 5, .corner 0 0 1 0x0F]).all (State.disciplined blank16) = true ∧
    [Instr.widthc 0x41, .widths [0x00, 0x43], .drawchar 0x41, .drawstr [0x41, 0x42, 0x43]].all
      (State.disciplined (text16 2 4)) = true := by decide

theorem witness_SetmodeSetsTheMode :
    (0 : Byte).toNat = 0 ∧ (1 : Byte).toNat = 1 ∧ (2 : Byte).toNat = 2 ∧ 3 ≤ (3 : Byte).toNat ∧ 3 ≤ (255 : Byte).toNat := by
  decide

theorem witness_SetfontAttachesTheFont :
    (0 : Byte).toNat = 0 ∧ (1 : Byte).toNat = 1 ∧ 2 ≤ (2 : Byte).toNat ∧ 2 ≤ (255 : Byte).toNat := by decide

/-- Each clause: zero size, empty rectangle, union; R81's example and the wrapped union of V-DIRTY-4. -/
theorem witness_MarkdirtyFormsTheWrappedUnion :
    (nextOf (exec (.markdirty 0 0 0 9) (blank16.setDirty 10 10 5 5))).map State.dirty = some (10, 10, 5, 5) ∧
    (nextOf (exec (.markdirty 3 4 2 2) (blank16.setDirty 9 9 0 5))).map State.dirty = some (3, 4, 2, 2) ∧
    (nextOf (exec (.markdirty 1 5 1 4) (blank16.setDirty 3 4 2 2))).map State.dirty = some (1, 4, 4, 5) ∧
    (nextOf (exec (.markdirty 0 0 2 1) (blank16.setDirty 250 0 6 1))).map State.dirty = some (0, 0, 2, 1) := by decide

theorem witness_PlainBoxesUniteWithoutWrap :
    blank16.dirtyPlain = true ∧ blank16.dirtyEmpty = true ∧ (blank16.setDirty 0 1 255 254).dirtyPlain = true ∧
    (blank16.setDirty 0 1 255 254).dirtyEmpty = false ∧ plainTrackedBox (254, 0, 1, 255) = true := by decide

theorem witness_TrackerIsMonotoneAbsorbingOrderFree :
    (blank16.setDirty 0 1 255 254).dirtyPlain = true ∧ (blank16.setDirty 0 1 255 254).dirtyEmpty = false ∧
    plainTrackedBox (254, 1, 1, 254) = true ∧ blank16.dirtyEmpty = true ∧
    ([(1, 2, 3, 4), (9, 9, 1, 1)] : List TrackedBox).all plainTrackedBox = true ∧
    ([(1, 2, 3, 4), (9, 9, 1, 1)] : List TrackedBox).Perm [(9, 9, 1, 1), (1, 2, 3, 4)] ∧
    containsBox 1 2 9 8 (9, 9, 1, 1) ∧ containsBox 1 2 9 8 (1, 2, 3, 4) ∧
    containsBox 0 1 255 254 (254, 1, 1, 254) :=
  ⟨by decide, by decide, by decide, by decide, by decide, .swap _ _ _, by unfold containsBox; decide,
    by unfold containsBox; decide, by unfold containsBox; decide⟩

theorem witness_FlushReportsTheHostsAnswer :
    blank16.dirtyEmpty = true ∧ (blank16.setDirty 0 0 16 16).dirtyEmpty = false ∧
    ({ blank16.setDirty 0 0 16 16 with answers := [true] } : State).answers = true :: [] ∧
    ({ blank16.setDirty 0 0 16 16 with answers := [false] } : State).answers = false :: [] ∧
    (blank16.setDirty 0 0 16 16).answers = [] := by decide

theorem witness_FlushAfterFlushOrValidate :
    let s := { blank16.setDirty 0 0 16 16 with answers := [false, true] }
    ((nextOf (exec .validate s)).bind fun t => nextOf (exec .flush t)).isSome = true ∧
    ((nextOf (exec .flush s)).map (·.res) = some 0) ∧
    ((nextOf (exec .flush { s with answers := [true] })).map (·.res) = some 1) ∧
    ((nextOf (exec .flush s)).bind fun t => nextOf (exec .flush t)).isSome = true := by decide

theorem witness_PixelsHaveBitsOfTheirOwn :
    15 < blank16.w ∧ 15 < blank16.h ∧ 7 < blank16.w ∧ 7 < blank16.h ∧ blank16.fbIndex 15 15 = 31 ∧
    blank16.fbIndex 15 15 = blank16.fbIndex 15 15 := by decide

theorem witness_BlendActsOnTheMaskOnly :
    (0x7F : Byte).getLsbD 7 = false ∧ (0x80 : Byte).getLsbD 7 = true ∧ (0x01 : Byte).getLsbD 0 = true := by decide

/-- Both outcomes of each call, at the display's edge. -/
theorem witness_SinkCallsFaultOutsideTheirDomain :
    [SinkCall.pixel 15 15, .hrun 0 15 15, .vrun 15 0 15, .pixel 271 0].map (SinkCall.inDomain blank16) =
      [true, true, true, true] ∧
    [SinkCall.pixel 16 0, .pixel 0 16, .hrun 2 1 0, .hrun 0 16 0, .vrun 0 5 4, .vrun 0 0 16, .pixel (-1) 0].map
      (SinkCall.inDomain blank16) = [false, false, false, false, false, false, false] := by decide

theorem witness_RunsEqualTheirPixels : blank16.fb.wf = true ∧ 0 ≤ 15 ∧ 15 < blank16.w ∧ 15 < blank16.h := by decide

theorem witness_MultiplicityDecidesThePixel :
    blank16.fb.wf = true ∧
    (runSinks [.pixel 15 15, .vrun 15 0 15, .hrun 0 15 15] blank16).toOption.isSome = true ∧
    15 < blank16.w ∧ 15 < blank16.h ∧ [SinkCall.pixel 1 1, .pixel 2 2].Perm [.pixel 2 2, .pixel 1 1] :=
  ⟨by decide, by decide, by decide, by decide, .swap _ _ _⟩

/-- Every shape, inside and outside the display. -/
theorem witness_ShapeCommandsDrawTheirCalls :
    blank16.fb.wf = true ∧
    shapes16.all (fun i => i.legalOperands && ((shapeCalls blank16 i).map (·.all (SinkCall.inDomain blank16))) ==
      some true) = true ∧
    shapesOff16.all (fun i => i.legalOperands && ((shapeCalls blank16 i).map (·.all (SinkCall.inDomain blank16))) ==
      some false) = true := by decide

theorem witness_ZeroSizedShapesDoNothing :
    [Instr.framerect 200 200 0 9, .paintrect 7 7 3 0, .frameoval 0 0 0 5, .paintoval 250 250 3 0,
      .framerrect 0 0 0 0 2, .paintrrect 0 0 0 5 2].map (fun i => faultOf i blank16) =
      [some (false, 0, 5), some (false, 0, 5), some (false, 0, 5), some (false, 0, 5), some (false, 0, 6),
        some (false, 0, 6)] := by decide

theorem witness_PixelWritesOneBit :
    blank16.fb.wf = true ∧ (15 : Byte).toNat < blank16.w ∧ (15 : Byte).toNat < blank16.h ∧
    faultOf (.pixel 15 15) blank16 = some (false, 0, 3) ∧ blank16.w ≤ (16 : Byte).toNat ∧
    faultOf (.pixel 16 0) blank16 = some (true, 3, 0) ∧ faultOf (.pixel 0 255) blank16 = some (true, 3, 0) := by decide

/-- A walk between the corners; each endpoint off the display in turn. -/
theorem witness_LinetoDrawsToItsTarget :
    faultOf (.lineto 15 15) blank16 = some (false, 0, 3) ∧ faultOf (.lineto 16 0) blank16 = some (true, 3, 0) ∧
    faultOf (.lineto 3 16) blank16 = some (true, 3, 0) ∧
    faultOf (.lineto 3 3) (blank16.setCursor 16 0) = some (true, 3, 0) ∧
    faultOf (.lineto 3 3) (blank16.setCursor 0 16) = some (true, 3, 0) := by decide

/-- A vertical, a horizontal and a zero-length line. -/
theorem witness_AxisLinesCoverTheirRun :
    blank16.curx = 0 ∧ faultOf (.lineto 0 15) blank16 = some (false, 0, 3) ∧ blank16.cury = 0 ∧
    faultOf (.lineto 15 0) blank16 = some (false, 0, 3) ∧ faultOf (.lineto 0 0) blank16 = some (false, 0, 3) := by decide

/-- R94: the longest walk has 256 calls; V-LINE-4's walk runs backward. -/
theorem witness_LineWalkReachesItsTarget :
    (lineWalkCalls 0 0 255 1).length = 256 ∧ lineWalkCalls 2 1 0 0 = [.pixel 2 1, .pixel 1 1, .pixel 0 0] := by decide

/-- Each clause: zero size, the whole display, one column and one row too far. -/
theorem witness_PaintrectFillsItsBox :
    faultOf (.paintrect 200 200 0 9) blank16 = some (false, 0, 5) ∧
    faultOf (.paintrect 0 0 16 16) blank16 = some (false, 0, 5) ∧
    faultOf (.paintrect 1 0 16 1) blank16 = some (true, 3, 0) ∧
    faultOf (.paintrect 0 1 1 16) blank16 = some (true, 3, 0) := by decide

/-- Each clause; a right edge that wraps onto the display still faults. -/
theorem witness_FramerectDrawsItsBorder :
    faultOf (.framerect 9 9 9 0) blank16 = some (false, 0, 5) ∧
    faultOf (.framerect 0 0 16 16) blank16 = some (false, 0, 5) ∧
    faultOf (.framerect 14 0 250 2) blank16 = some (true, 3, 0) ∧
    faultOf (.framerect 0 1 1 16) blank16 = some (true, 3, 0) := by decide

theorem witness_OvalsDrawInsideTheirRectangle :
    [Instr.frameoval 0 0 16 16, .paintoval 0 0 16 16].map (fun i => faultOf i blank16) =
      [some (false, 0, 5), some (false, 0, 5)] ∧
    [Instr.frameoval 10 0 7 5, .paintoval 0 12 5 5].map (fun i => faultOf i blank16) =
      [some (true, 3, 0), some (true, 3, 0)] := by decide

/-- The smallest and a tall narrow oval: R104's case, whose end rows only the trailing loop reaches. -/
theorem witness_OvalsAreInscribedAndSymmetric :
    multiplicity (ovalCalls false 255 255 1 1) 255 255 = 4 ∧ multiplicity (ovalCalls false 0 0 1 5) 0 0 = 2 ∧
    inBox 0 0 1 5 0 4 = true := by decide

theorem witness_PaintovalFillsTheFrame :
    multiplicity (ovalCalls true 0 0 3 3) 1 1 = 4 ∧ multiplicity (ovalCalls false 0 0 3 3) 1 1 = 0 ∧
    multiplicity (ovalCalls false 0 0 3 3) 1 0 = 4 := by decide

/-- One and two iterations more change nothing. -/
theorem witness_WalksEndByTheirOwnTest :
    lineWalk 2 1 1 1 2 1 6 0 0 1 = lineWalkCalls 0 0 2 1 ∧
    cornerWalk 8 8 1 (2 * 4 + 1 + 1) ⟨-4, 0, -6⟩ = cornerCalls 8 8 4 1 ∧
    (ovalMain (ovalEmit false 1 1) 32 32 (6 + 2) (ovalSetup 0 0 3 3)).1.length = 8 := by decide

/-- The largest radius; CORNER 250, 120, 120, 0x01, whose unselected quadrants leave 0..255; radii 0 and 1 anywhere. -/
theorem witness_CornersCoverTheirQuadrantsOnce :
    quadrantsInRange 255 255 255 0x11 = true ∧ multiplicity (cornerCalls 255 255 255 0x11) 0 254 = 1 ∧
    quadrantsInRange 250 120 120 0x01 = true ∧ quadrantsInRange 250 120 120 0x02 = false ∧
    quadrantsInRange 127 128 127 0x1F = true ∧ cornerCalls 0 0 1 0x0F = [] ∧ cornerCalls 0 0 0 0x1F = [] := by decide

/-- The smallest and the largest radius, in each quadrant; R113's offsets for radius 5 in the bottom-right one. -/
theorem witness_CornersFormArcs :
    (List.range 4).all (fun q => quadrantsInRange 127 128 2 (BitVec.ofNat 8 (2 ^ q)) && maskBit (BitVec.ofNat 8 (2 ^ q)) q) =
      true ∧
    quadrantsInRange 0 0 255 0x04 = true ∧ maskBit 0x04 2 = true ∧
    (List.range 26).map (fun k => multiplicity (cornerCalls 0 0 5 0x04) (1 + k / 5) (1 + k % 5)) =
      [0, 0, 0, 0, 1] ++ [0, 0, 0, 0, 1] ++ [0, 0, 0, 1, 0] ++ [0, 0, 1, 0, 0] ++ [1, 1, 0, 0, 0] ++ [0] := by decide

/-- Boxes on the display; radius 1 off the display; an unselected quadrant off the display. -/
theorem witness_CornerDrawsItsQuadrants :
    blank16.cornerOnDisplay 8 8 7 0x1F = true ∧ faultOf (.corner 8 8 7 0x1F) blank16 = some (false, 0, 5) ∧
    faultOf (.corner 0 0 1 0x0F) blank16 = some (false, 0, 5) ∧
    blank16.cornerOnDisplay 0 0 4 0x04 = true ∧ faultOf (.corner 0 0 4 0x04) blank16 = some (false, 0, 5) := by decide

theorem witness_RadiusIsClamped :
    min (255 : Byte).toNat (min (9 : Byte).toNat (7 : Byte).toNat / 2) =
      min (3 : Byte).toNat (min (9 : Byte).toNat (7 : Byte).toNat / 2) ∧
    faultOf (.framerect 1 1 1 7) blank16 = some (false, 0, 5) ∧
    faultOf (.paintrect 1 1 7 1) blank16 = some (false, 0, 5) := by decide

theorem witness_RoundRectsDrawInsideTheirRectangle :
    blank16.fb.wf = true ∧ (12 : Byte).toNat + (4 : Byte).toNat ≤ blank16.w ∧
    faultOf (.framerrect 12 0 4 16 2) blank16 = some (false, 0, 6) ∧
    faultOf (.paintrrect 0 0 16 16 255) blank16 = some (false, 0, 6) := by decide

/-- The far corner of 0..255; a 2×2 rectangle that draws nothing; a corner box, an edge and the inside of V-RR-18. -/
theorem witness_RoundRectsCoverOnce :
    multiplicity (roundRectCalls true 252 249 4 7 (clampRadius 4 7 9)) 255 252 = 1 ∧
    multiplicity (roundRectCalls false 1 1 2 2 (clampRadius 2 2 1)) 1 1 = 0 ∧ clampRadius 7 5 2 = 2 ∧
    multiplicity (cornerCalls 3 3 2 0x01) 1 2 = 1 ∧ multiplicity (roundRectCalls false 1 1 7 5 2) 1 2 = 1 ∧
    multiplicity (roundRectCalls false 1 1 7 5 2) 4 1 = 1 ∧ multiplicity (roundRectCalls false 1 1 7 5 2) 4 3 = 0 ∧
    multiplicity (roundRectCalls true 1 1 7 5 2) 4 3 = 1 := by decide

/-- Each clause of the font reader: no font, a missing header, a code below, above and inside, a missing byte. -/
theorem witness_FontReadsFollowTheTables :
    blank16.glyph 0x41 = .ok none ∧ ({ blank16 with fonten := true } : State).glyph 0x41 = .error .fontRange ∧
    (text16 0 0).glyph 0x40 = .ok none ∧ (text16 0 0).glyph 0x44 = .ok none ∧
    (text16 0 0).glyph 0x43 = .ok (some ⟨15, 2, 2, 3, -1, -2⟩) ∧
    ({ text16 0 0 with fm := Rom.ofBytes (f1.take 10) } : State).glyph 0x41 = .error .fontRange ∧
    (text16 0 0).bm.read (15 / 8) = some 0xDB ∧ (text16 0 0).bm.read (24 / 8) = none := by
  refine ⟨rfl, rfl, rfl, rfl, rfl, rfl, rfl, rfl⟩

theorem witness_WidthsReportTheAdvances :
    (text16 0 0).glyph 0x44 = .ok none ∧ (text16 0 0).glyph 0x42 = .ok (some ⟨0, 0, 0, 3, 0, 0⟩) ∧
    ({ blank16 with fonten := true } : State).glyph 0x00 = .error .fontRange := by
  refine ⟨rfl, rfl, rfl⟩

/-- Each clause: no glyph, no table, a glyph that fits, a set bit off the display, a bit outside `BM`. -/
theorem witness_DrawcharBlitsTheGlyph :
    (text16 0 0).fb.wf = true ∧ (text16 0 0).glyph 0x44 = .ok none ∧
    ({ blank16 with fonten := true } : State).glyph 0x41 = .error .fontRange ∧
    (text16 12 11).glyphFits ⟨0, 3, 5, 6, 1, 0⟩ = true ∧ (text16 13 0).glyphFits ⟨0, 3, 5, 6, 1, 0⟩ = false ∧
    ({ text16 0 0 with bm := Rom.ofBytes [0x57] } : State).glyphFits ⟨0, 3, 5, 6, 1, 0⟩ = false :=
  ⟨by decide, rfl, rfl, by decide, by decide, by decide⟩

/-- R136's example: `BM` too short and a set bit off the display; the one that comes first in row-major order decides. -/
theorem test_drawchar_first_offence :
    let short := fun x y => { text16 x y with bm := Rom.ofBytes [0x57] }
    (short 15 0).cellFault ⟨0, 3, 5, 6, 1, 0⟩ 1 = some .sinkRange ∧
    (short 15 0).cellFault ⟨0, 3, 5, 6, 1, 0⟩ 8 = some .fontRange ∧
    faultOf (.drawchar 0x41) (short 15 0) = some (true, 3, 0) ∧
    (short 0 12).cellFault ⟨0, 3, 5, 6, 1, 0⟩ 7 = none ∧
    (short 0 12).cellFault ⟨0, 3, 5, 6, 1, 0⟩ 8 = some .fontRange ∧
    faultOf (.drawchar 0x41) (short 0 12) = some (true, 4, 0) := by decide

/-- A string that is drawn, and one whose third character runs off the display. -/
theorem witness_DrawstrIsItsCharacters :
    (nextOf (drawEach [0x41, 0x42, 0x43] (text16 2 4))).map (fun t => (t.fault, t.curx)) = some (false, 14) ∧
    (nextOf (drawEach [0x41, 0x41, 0x41] (text16 2 4))).map (fun t => (t.fault, t.fcode)) = some (true, 3) := by decide

theorem witness_DrawstrCompletesWhereItsGlyphsFit : (text16 0 0).textFits [0x41, 0x41, 0x41, 0x44] = true := by decide

theorem witness_StringWidthIsTheCursorsMove :
    faultOf (.widths [0x41, 0x42, 0x43]) (text16 2 4) = some (false, 0, 5) ∧
    faultOf (.drawstr [0x41, 0x42, 0x43]) (text16 2 4) = some (false, 0, 5) := by decide

/-- A command that writes what it may write. -/
theorem witness_OnlyTheNamedCommandsWrite :
    (nextOf (exec (.lineto 3 3) blank16)).map (fun t => (t.fault, t.curx, decide (t.fb = blank16.fb))) =
      some (false, 3, false) := by decide

/-- A declared box at the edge of the plain boxes, and a command that modifies a pixel. -/
theorem witness_TrackerCoversEveryModifiedPixel :
    blank16.fb.wf = true ∧ blank16.dirtyPlain = true ∧
    (declaredBoxes (display 255 .h128 [] [] []) (.paintrect 254 127 1 1)).all plainTrackedBox = true ∧
    (declaredBoxes blank16 (.corner 8 8 7 0x0F)).all plainTrackedBox = true ∧
    (declaredBoxes (text16 0 0) (.drawchar 0x41)).all plainTrackedBox = true ∧
    (nextOf (exec (.pixel 3 9) blank16)).map (fun t => (t.fault, t.pixelAt 3 9)) = some (false, true) := by decide

theorem witness_DrawingIgnoresTheTracker :
    let s' := { blank16.setDirty 1 2 3 4 with res := 9, answers := [true], draws := 5 }
    s' = { blank16 with dx := s'.dx, dy := s'.dy, dw := s'.dw, dh := s'.dh, res := s'.res, answers := s'.answers,
                        transmissions := s'.transmissions, draws := s'.draws } ∧
    faultOf (.paintoval 1 1 7 5) blank16 = some (false, 0, 5) ∧ faultOf (.paintoval 1 1 7 5) s' = some (false, 0, 5) :=
  ⟨rfl, by decide, by decide⟩

end Sys2Proof.Tests
end

section
/-! SUPPORT. How many bytes a decoded command takes (R65, R66, R72). -/

namespace Sys2Proof

theorem Instr.length_pos (i : Instr) : 0 < i.length := by
  cases i <;> simp [Instr.length]

/-- A command takes its opcode and no more operand bytes than there are. -/
theorem length_le_of_assembleOperands {op : Opcode} {rest : List Byte} {i : Instr}
    (h : assembleOperands op rest = some i) : i.length ≤ rest.length + 1 := by
  unfold assembleOperands at h
  split at h
  -- the strings, whose count is checked against the bytes there are
  case h_20 | h_21 =>
    split at h
    · cases h
      simp only [Instr.length, List.length_take, List.length_cons]
      omega
    · cases h
  case h_22 => cases h
  all_goals
    cases h
    simp [Instr.length]

/-- A decoded command lies wholly in the bytes it was decoded from. -/
theorem length_le_of_decode {bytes : List Byte} {i : Instr} (h : decode bytes = .ok i) :
    i.length ≤ bytes.length := by
  unfold decode at h
  split at h
  · cases h
  · split at h
    · cases h
    · split at h
      · cases h
      · rename_i hi
        cases h
        exact length_le_of_assembleOperands hi

end Sys2Proof
end

section
/-! SUPPORT. Sink calls in their domain store inside `FB` (R39, R42). -/

namespace Sys2Proof.Machine

theorem State.pages_pos (s : State) : 0 < s.pages := by
  unfold State.pages
  cases s.height <;> decide

/-- The page mask of R38 always gives a page of `FB`. -/
theorem State.pageOf_lt (s : State) (y : Nat) : pageOf s.pages y < s.pages := by
  have hmask : pageOf s.pages y ≤ s.pages - 1 := Nat.and_le_right
  have := s.pages_pos
  omega

/-- A column of the display and a page of `FB` address a byte of `FB` (R37). -/
theorem State.pageByte_lt (s : State) {x p : Nat} (hx : x < s.w) (hp : p < s.pages) : x + p * s.w < s.fbSize := by
  calc x + p * s.w < (p + 1) * s.w := by rw [Nat.succ_mul]; omega
    _ ≤ s.pages * s.w := Nat.mul_le_mul_right _ hp
    _ = s.fbSize := Nat.mul_comm _ _

theorem State.fbIndex_lt (s : State) {x : Nat} (y : Nat) (hx : x < s.w) : s.fbIndex x y < s.fbSize :=
  s.pageByte_lt hx (s.pageOf_lt y)

theorem vrunWrites_lt (s : State) {x : Nat} (top bottom : Nat) (hx : x < s.w) :
    ∀ im ∈ vrunWrites s x top bottom, im.1 < s.fbSize := by
  intro im him
  have htop := s.pageByte_lt hx (s.pageOf_lt top)
  have hbottom := s.pageByte_lt hx (s.pageOf_lt bottom)
  simp only [vrunWrites] at him
  split at him
  · obtain rfl := List.mem_singleton.mp him
    exact htop
  · simp only [List.mem_cons, List.mem_append, List.mem_map, List.mem_range'_1, List.not_mem_nil, or_false] at him
    obtain rfl | ⟨p, hp, rfl⟩ | rfl := him
    · exact htop
    · have := s.pageOf_lt bottom
      exact s.pageByte_lt hx (by omega)
    · exact hbottom

/-- Every byte a sink call in its domain stores to is a byte of `FB` (R39). -/
theorem SinkCall.writes_lt (s : State) (c : SinkCall) (h : c.inDomain s = true) :
    ∀ im ∈ c.writes s, im.1 < s.fbSize := by
  intro im him
  cases c with
  | pixel x y =>
    simp only [SinkCall.inDomain, Bool.and_eq_true, decide_eq_true_eq] at h
    obtain rfl := List.mem_singleton.mp him
    exact s.fbIndex_lt _ h.1
  | hrun l r y =>
    simp only [SinkCall.inDomain, Bool.and_eq_true, decide_eq_true_eq] at h
    obtain ⟨x, hx, rfl⟩ := List.mem_map.mp him
    rw [List.mem_range'_1] at hx
    exact s.fbIndex_lt _ (by omega)
  | vrun x t b =>
    simp only [SinkCall.inDomain, Bool.and_eq_true, decide_eq_true_eq] at h
    exact vrunWrites_lt s _ _ h.1.1 im him

end Sys2Proof.Machine
end

section
/-! SUPPORT. What drawing can do: `State.DrawsTo` says once how a state differs from the one a drawing started in,
`Answers` what an effect answers when it completes and which faults it raises. One lemma per drawing function. -/

namespace Sys2Proof.Machine

/-- An effect that completes in a value of `P`, or raises a fault of `E`. -/
def Answers {α : Type} (E : FaultCode → Prop) (P : α → Prop) : Except FaultCode α → Prop
  | .ok a => P a
  | .error k => E k

theorem answers_ok {α : Type} {E : FaultCode → Prop} {P : α → Prop} {a : α} (h : P a) : Answers E P (.ok a) := h

theorem Answers.ok {α : Type} {E : FaultCode → Prop} {P : α → Prop} {r : Except FaultCode α} {a : α}
    (h : Answers E P r) (hr : r = .ok a) : P a := by
  subst hr
  exact h

theorem Answers.error {α : Type} {E : FaultCode → Prop} {P : α → Prop} {r : Except FaultCode α} {k : FaultCode}
    (h : Answers E P r) (hr : r = .error k) : E k := by
  subst hr
  exact h

theorem Answers.mono {α : Type} {E E' : FaultCode → Prop} {P P' : α → Prop} {r : Except FaultCode α}
    (h : Answers E P r) (hE : ∀ k, E k → E' k) (hP : ∀ a, P a → P' a) : Answers E' P' r := by
  cases r with
  | ok a => exact hP a h
  | error k => exact hE k h

theorem Answers.bind {α β : Type} {E : FaultCode → Prop} {P : α → Prop} {Q : β → Prop} {r : Except FaultCode α}
    {f : α → Except FaultCode β} (h : Answers E P r) (hf : ∀ a, P a → Answers E Q (f a)) :
    Answers E Q (r >>= f) := by
  cases r with
  | ok a => exact hf a h
  | error k => exact h

/-- The faults drawing and font reading raise: `SinkRange` and `FontRange`, the imprecise ones (R134). -/
abbrev Imprecise (k : FaultCode) : Prop := k.precise = false

/-- `t` is `s` with some bytes inside `FB` combined with masks in the draw mode, some dirty rectangle, and the cursor
at `(cx, cy)`; nothing else differs. -/
def State.DrawsTo (s : State) (cx cy : Byte) (t : State) : Prop :=
  ∃ (ims : List (Nat × Byte)) (x y w h : Byte), (∀ im ∈ ims, im.1 < s.fbSize) ∧
    t = ((s.setFb (applyMasks s.mode ims s.fb)).setDirty x y w h).setCursor cx cy

theorem State.DrawsTo.refl (s : State) : s.DrawsTo s.curx s.cury s :=
  ⟨[], s.dx, s.dy, s.dw, s.dh, by simp, rfl⟩

theorem State.DrawsTo.trans {s t u : State} {cx cy cx' cy' : Byte} (hst : s.DrawsTo cx cy t)
    (htu : t.DrawsTo cx' cy' u) : s.DrawsTo cx' cy' u := by
  obtain ⟨ims, x, y, w, h, hims, rfl⟩ := hst
  obtain ⟨ims', x', y', w', h', hims', rfl⟩ := htu
  refine ⟨ims ++ ims', x', y', w', h', fun im him => ?_, ?_⟩
  · exact (List.mem_append.mp him).elim (hims im) (hims' im)
  · rw [applyMasks_append]
    rfl

theorem State.DrawsTo.setCursor {s t : State} {cx cy : Byte} (h : s.DrawsTo cx cy t) (cx' cy' : Byte) :
    s.DrawsTo cx' cy' (t.setCursor cx' cy') := by
  obtain ⟨ims, x, y, w, h, hims, rfl⟩ := h
  exact ⟨ims, x, y, w, h, hims, rfl⟩

/-- Drawing leaves the cursor where it says. -/
theorem State.DrawsTo.cursor {s t : State} {cx cy : Byte} (h : s.DrawsTo cx cy t) : t.curx = cx ∧ t.cury = cy := by
  obtain ⟨ims, x, y, w, h, -, rfl⟩ := h
  exact ⟨rfl, rfl⟩

theorem State.drawsTo_setDirty (s : State) (x y w h : Byte) : s.DrawsTo s.curx s.cury (s.setDirty x y w h) :=
  ⟨[], x, y, w, h, by simp, rfl⟩

theorem State.drawsTo_markDirty (s : State) (l t w h : Int) : s.DrawsTo s.curx s.cury (s.markDirty l t w h) := by
  obtain ⟨x, y, a, b, e⟩ := s.markBox_eq (wrap8 l) (wrap8 t) (wrap8 w) (wrap8 h)
  rw [State.markDirty, e]
  exact s.drawsTo_setDirty x y a b

/-- Sink calls draw in their domain and raise `SinkRange` outside it (R42). -/
theorem runSinks_answers (calls : List SinkCall) (s : State) :
    Answers Imprecise (s.DrawsTo s.curx s.cury) (runSinks calls s) := by
  rw [runSinks_eq]
  split
  · rename_i hall
    refine ⟨calls.flatMap (SinkCall.writes s), s.dx, s.dy, s.dw, s.dh, fun im him => ?_, rfl⟩
    obtain ⟨c, hc, him⟩ := List.mem_flatMap.mp him
    exact c.writes_lt s (List.all_eq_true.mp hall c hc) im him
  · rfl

/-- Sink calls after marking boxes draw as the calls alone do. -/
theorem runSinks_answers_of_marked {s t : State} (calls : List SinkCall) (h : s.DrawsTo s.curx s.cury t) :
    Answers Imprecise (s.DrawsTo s.curx s.cury) (runSinks calls t) := by
  obtain ⟨hx, hy⟩ := h.cursor
  refine (runSinks_answers calls t).mono (fun _ => id) fun u hu => ?_
  rw [hx, hy] at hu
  exact h.trans hu

theorem drawShape_answers (x y w h : Byte) (calls : List SinkCall) (s : State) :
    Answers Imprecise (s.DrawsTo s.curx s.cury) (drawShape x y w h calls s) := by
  unfold drawShape
  split
  · exact .refl s
  · exact runSinks_answers_of_marked calls (s.drawsTo_markDirty ..)

theorem lineTo_answers (x y : Byte) (s : State) : Answers Imprecise (s.DrawsTo x y) (lineTo x y s) := by
  unfold lineTo
  simp only
  split
  · rename_i ht
    exact ((runSinks_answers_of_marked _ (s.drawsTo_markDirty ..)).ok ht).setCursor x y
  · rename_i hk
    exact (runSinks_answers_of_marked _ (s.drawsTo_markDirty ..)).error hk

theorem markCorner_drawsTo (cx cy r : Int) (m : Byte) (s : State) :
    s.DrawsTo s.curx s.cury (markCorner cx cy r m s) := by
  have hmark : ∀ (b : Bool) (l t : Int) {u : State}, s.DrawsTo s.curx s.cury u →
      s.DrawsTo s.curx s.cury (if b then u.markDirty l t r r else u) := by
    intro b l t u hu
    obtain ⟨hx, hy⟩ := hu.cursor
    split
    · exact hx ▸ hy ▸ hu.trans (u.drawsTo_markDirty ..)
    · exact hu
  exact hmark _ _ _ (hmark _ _ _ (hmark _ _ _ (hmark _ _ _ (.refl s))))

/-! ## Fonts and text -/

theorem State.fontByte_answers (s : State) (a : Nat) : Answers Imprecise (fun _ => True) (s.fontByte a) := by
  unfold State.fontByte
  split
  · trivial
  · rfl

theorem State.glyphEntry_answers (s : State) (e : Nat) : Answers Imprecise (fun _ => True) (s.glyphEntry e) := by
  have hbyte := fun (a : Nat) => s.fontByte_answers a
  exact (hbyte _).bind fun _ _ => (hbyte _).bind fun _ _ => (hbyte _).bind fun _ _ => (hbyte _).bind fun _ _ =>
    (hbyte _).bind fun _ _ => (hbyte _).bind fun _ _ => (hbyte _).bind fun _ _ => trivial

/-- Looking a glyph up raises no fault but `FontRange` (R52). -/
theorem State.glyph_answers (s : State) (code : Byte) : Answers Imprecise (fun _ => True) (s.glyph code) := by
  unfold State.glyph
  split
  · refine (s.fontByte_answers 0).bind fun first _ => (s.fontByte_answers 1).bind fun last _ => ?_
    split
    · trivial
    · exact (s.glyphEntry_answers _).bind fun _ _ => trivial
  · trivial

theorem widthOf_answers (s : State) (code : Byte) : Answers Imprecise (fun _ => True) (widthOf s code) := by
  unfold widthOf
  split
  · trivial
  · trivial
  · rename_i hk
    exact (s.glyph_answers code).error hk

theorem widthSum_answers (s : State) (sum : Nat) (codes : List Byte) :
    Answers Imprecise (fun _ => True) (widthSum s sum codes) := by
  induction codes generalizing sum with
  | nil => trivial
  | cons c rest ih =>
    unfold widthSum
    split
    · exact ih _
    · rename_i hk
      exact (widthOf_answers s c).error hk

theorem SinkCall.run_answers (c : SinkCall) (s : State) :
    Answers Imprecise (s.DrawsTo s.curx s.cury) (c.run s) := by
  have hrun : c.run s = runSinks [c] s := by
    unfold runSinks
    cases c.run s <;> rfl
  exact hrun ▸ runSinks_answers [c] s

theorem blitCells_answers (g : Glyph) (ox oy : Byte) (cells : List (Nat × Nat)) (s : State) :
    Answers Imprecise (s.DrawsTo s.curx s.cury) (blitCells g ox oy cells s) := by
  induction cells generalizing s with
  | nil => exact .refl s
  | cons cr rest ih =>
    unfold blitCells
    split
    · rename_i hk
      exact congrArg FaultCode.precise (s.bitmapBit_error _ _ hk)
    · exact ih s
    · split
      · rename_i hk
        exact (SinkCall.run_answers _ s).error hk
      · rename_i t ht
        have hst := (SinkCall.run_answers _ s).ok ht
        obtain ⟨hx, hy⟩ := hst.cursor
        exact (ih t).mono (fun _ => id) fun u hu => hst.trans (hx ▸ hy ▸ hu)

/-- Text draws and moves the cursor along its row. -/
def State.DrawsText (s t : State) : Prop := ∃ cx, s.DrawsTo cx s.cury t

theorem State.DrawsText.refl (s : State) : s.DrawsText s := ⟨s.curx, .refl s⟩

theorem State.DrawsText.trans {s t u : State} (hst : s.DrawsText t) (htu : t.DrawsText u) : s.DrawsText u := by
  obtain ⟨cx, hst⟩ := hst
  obtain ⟨cx', htu⟩ := htu
  exact ⟨cx', hst.trans (hst.cursor.2 ▸ htu)⟩

theorem drawGlyph_answers (g : Glyph) (s : State) : Answers Imprecise s.DrawsText (drawGlyph g s) := by
  unfold drawGlyph
  simp only
  split
  · rename_i t ht
    have hdraw := (blitCells_answers ..).ok ht
    have hst := (s.drawsTo_markDirty ..).trans hdraw
    simp only [State.markDirty_curx, State.markDirty_cury] at hst
    rw [hst.cursor.2]
    exact ⟨_, hst.setCursor _ _⟩
  · rename_i hk
    exact (blitCells_answers ..).error hk

theorem drawChar_answers (code : Byte) (s : State) : Answers Imprecise s.DrawsText (drawChar code s) := by
  unfold drawChar
  split
  · exact drawGlyph_answers _ s
  · exact .refl s
  · rename_i hk
    exact (s.glyph_answers code).error hk

theorem drawString_answers (codes : List Byte) (s : State) :
    Answers Imprecise s.DrawsText (drawString codes s) := by
  induction codes generalizing s with
  | nil => exact .refl s
  | cons c rest ih =>
    unfold drawString
    split
    · rename_i t ht
      have hst := (drawChar_answers c s).ok ht
      exact (ih t).mono (fun _ => id) fun u hu => hst.trans hu
    · rename_i hk
      exact (drawChar_answers c s).error hk

end Sys2Proof.Machine
end

section
/-! SUPPORT. Everything a command can do: `Written` says, command by command, which writes its completion is made of;
`exec_cases` is the inversion of `exec`, `step_cases` that of `step`. -/

namespace Sys2Proof.Machine

/-- Command `i` draws, and leaves the cursor at `(cx, cy)`: LINETO at its target (R90), the other shapes where it was,
text on its row (R124). -/
def DrawingCommand (s : State) (i : Instr) (cx cy : Byte) : Prop :=
  i = .lineto cx cy ∨ ((shapeCalls s i).isSome = true ∧ cx = s.curx ∧ cy = s.cury) ∨
    (((∃ c, i = .drawchar c) ∨ ∃ cs, i = .drawstr cs) ∧ cy = s.cury)

/-- A command that draws has sink calls of its own, LINETO among them, or is text. -/
theorem DrawingCommand.shape_or_text {s : State} {i : Instr} {cx cy : Byte} (h : DrawingCommand s i cx cy) :
    (shapeCalls s i).isSome = true ∨ (∃ c, i = .drawchar c) ∨ ∃ cs, i = .drawstr cs := by
  obtain rfl | ⟨hi, -, -⟩ | ⟨hi, -⟩ := h
  · exact .inl rfl
  · exact .inl hi
  · exact .inr hi

/-- The state command `i` completes in, before `CP` moves: `s` with the writes of R24 to R28 its rule names. -/
inductive Written (s : State) : Instr → State → Prop
  | cursor (x y : Byte) : Written s (.moveto x y) (s.setCursor x y)
  | mode (m : Byte) (mode : DrawMode) : Written s (.setmode m) (s.setMode mode)
  | font (en : Byte) (b : Bool) : Written s (.setfont en) (s.setFonten b)
  | cleared (x y w h : Byte) : Written s .clear ((s.setFb ⟨.zero, []⟩).setDirty x y w h)
  | dirty (i : Instr) (x y w h : Byte)
      (hi : (∃ a b c d, i = .markdirty a b c d) ∨ i = .invalidate ∨ i = .validate) : Written s i (s.setDirty x y w h)
  | flushed (x y w h : Byte) (v : Half) (answers : List Bool) (transmissions : List Transmission) (n : Nat) :
      Written s .flush { (s.setDirty x y w h).setRes v with
        answers := answers, transmissions := transmissions, draws := s.draws + n }
  | result (i : Instr) (v : Half) (hi : (∃ c, i = .widthc c) ∨ ∃ cs, i = .widths cs) : Written s i (s.setRes v)
  | drawn (i : Instr) (cx cy : Byte) (t : State) (hi : DrawingCommand s i cx cy) (ht : s.DrawsTo cx cy t) :
      Written s i t

/-- The faults command `i` may raise: `SinkRange`, `FontRange`, and `IllegalOperand` for a reserved operand (R132). -/
def MayRaise (i : Instr) (k : FaultCode) : Prop :=
  Imprecise k ∨ (k = .illegalOperand ∧ i.legalOperands = false)

theorem MayRaise.code {i : Instr} {k : FaultCode} (h : MayRaise i k) : k.code = 2 ∨ k.code = 3 ∨ k.code = 4 := by
  cases k
  case illegalCommand => simp [MayRaise, Imprecise, FaultCode.precise] at h
  all_goals simp [FaultCode.code]

theorem modeOperand_eq_none {m : Byte} (h : modeOperand m = none) : (Instr.setmode m).legalOperands = false := by
  revert m
  decide

theorem fontOperand_eq_none {en : Byte} (h : fontOperand en = none) : (Instr.setfont en).legalOperands = false := by
  revert en
  decide

theorem cornerMaskLegal_eq_false {cx cy r m : Byte} (h : cornerMaskLegal m = false) :
    (Instr.corner cx cy r m).legalOperands = false := by
  have hmask : ∀ m : Byte, cornerMaskLegal m = false → decide (m.toNat < 32) = false := by decide
  exact hmask m h

theorem flushEffect_written (s : State) : Written s .flush (flushEffect s) := by
  unfold flushEffect State.transmit State.takeAnswer
  split
  · exact .flushed s.dx s.dy s.dw s.dh 1 s.answers s.transmissions 0
  · cases s.answers with
    | nil =>
      simp only
      split
      · exact .flushed 0 0 0 0 1 _ _ 1
      · exact .flushed s.dx s.dy s.dw s.dh 0 _ _ 1
    | cons ok more =>
      simp only
      split
      · exact .flushed 0 0 0 0 1 _ _ 0
      · exact .flushed s.dx s.dy s.dw s.dh 0 _ _ 0

theorem setmode_answers (m : Byte) (s : State) :
    Answers (MayRaise (.setmode m)) (Written s (.setmode m))
      (match modeOperand m with | some mode => .ok (s.setMode mode) | none => .error .illegalOperand) := by
  cases hm : modeOperand m with
  | some mode => exact .mode m mode
  | none => exact .inr ⟨rfl, modeOperand_eq_none hm⟩

theorem setfont_answers (en : Byte) (s : State) :
    Answers (MayRaise (.setfont en)) (Written s (.setfont en))
      (match fontOperand en with | some b => .ok (s.setFonten b) | none => .error .illegalOperand) := by
  cases hen : fontOperand en with
  | some b => exact .font en b
  | none => exact .inr ⟨rfl, fontOperand_eq_none hen⟩

theorem drawn_answers {i : Instr} {s : State} {cx cy : Byte} {r : Except FaultCode State}
    (hi : DrawingCommand s i cx cy) (h : Answers Imprecise (s.DrawsTo cx cy) r) : Answers (MayRaise i) (Written s i) r :=
  h.mono (fun _ => .inl) fun t => .drawn i cx cy t hi

/-- A drawing that keeps the cursor is the completion of a shape command. -/
theorem shape_answers {i : Instr} {s : State} {r : Except FaultCode State} (hi : (shapeCalls s i).isSome = true)
    (h : Answers Imprecise (s.DrawsTo s.curx s.cury) r) : Answers (MayRaise i) (Written s i) r :=
  drawn_answers (.inr (.inl ⟨hi, rfl, rfl⟩)) h

theorem text_answers {i : Instr} {s : State} {r : Except FaultCode State}
    (hi : (∃ c, i = .drawchar c) ∨ ∃ cs, i = .drawstr cs) (h : Answers Imprecise s.DrawsText r) :
    Answers (MayRaise i) (Written s i) r :=
  h.mono (fun _ => .inl) fun t ⟨cx, ht⟩ => .drawn i cx _ t (.inr (.inr ⟨hi, rfl⟩)) ht

theorem corner_answers (cx cy r m : Byte) (s : State) :
    Answers (MayRaise (.corner cx cy r m)) (Written s (.corner cx cy r m)) (cornerEffect cx cy r m s) := by
  unfold cornerEffect
  split
  · exact shape_answers rfl (runSinks_answers_of_marked _ (markCorner_drawsTo ..))
  · rename_i hm
    exact .inr ⟨rfl, cornerMaskLegal_eq_false (Bool.eq_false_iff.mpr hm)⟩

/-- A command of width measurement writes `RES` (R122, R123). -/
theorem result_answers {i : Instr} (hi : (∃ c, i = .widthc c) ∨ ∃ cs, i = .widths cs) (s : State) :
    ∀ r : Except FaultCode Nat, Answers Imprecise (fun _ => True) r →
      Answers (MayRaise i) (Written s i)
        (match r with | .ok n => .ok (s.setRes (BitVec.ofNat 16 n)) | .error k => .error k)
  | .ok _, _ => .result i _ hi
  | .error _, h => .inl h

/-- Every command ends as `State.finish` ends an effect: with the writes of its rule, or with a fault it may raise. -/
theorem exec_eq_finish (i : Instr) (s : State) :
    ∃ r, exec i s = s.finish i.length r ∧ Answers (MayRaise i) (Written s i) r := by
  cases i with
  | moveto x y => exact ⟨_, rfl, answers_ok (.cursor x y)⟩
  | setmode m => exact ⟨_, rfl, setmode_answers m s⟩
  | setfont en => exact ⟨_, rfl, setfont_answers en s⟩
  | clear => exact ⟨_, rfl, answers_ok (.cleared ..)⟩
  | markdirty l t w h =>
    obtain ⟨x, y, a, b, e⟩ := s.markBox_eq (wrap8 l.int) (wrap8 t.int) (wrap8 w.int) (wrap8 h.int)
    exact ⟨.ok (s.setDirty x y a b), e ▸ rfl, answers_ok (.dirty _ x y a b (.inl ⟨l, t, w, h, rfl⟩))⟩
  | invalidate => exact ⟨_, rfl, answers_ok (.dirty _ _ _ _ _ (.inr (.inl rfl)))⟩
  | validate => exact ⟨_, rfl, answers_ok (.dirty _ _ _ _ _ (.inr (.inr rfl)))⟩
  | flush => exact ⟨_, rfl, answers_ok (flushEffect_written s)⟩
  | pixel x y => exact ⟨_, rfl, shape_answers rfl (runSinks_answers_of_marked _ (s.drawsTo_markDirty ..))⟩
  | lineto x y => exact ⟨_, rfl, drawn_answers (.inl rfl) (lineTo_answers x y s)⟩
  | framerect x y w h | paintrect x y w h | frameoval x y w h | paintoval x y w h | framerrect x y w h c
  | paintrrect x y w h c => exact ⟨_, rfl, shape_answers rfl (drawShape_answers x y w h _ s)⟩
  | corner cx cy r m => exact ⟨_, rfl, corner_answers cx cy r m s⟩
  | widthc c => exact ⟨_, rfl, result_answers (.inl ⟨c, rfl⟩) s _ (widthOf_answers s c)⟩
  | widths cs => exact ⟨_, rfl, result_answers (.inr ⟨cs, rfl⟩) s _ (widthSum_answers s 0 cs)⟩
  | drawchar c => exact ⟨_, rfl, text_answers (.inl ⟨c, rfl⟩) (drawChar_answers c s)⟩
  | drawstr cs => exact ⟨_, rfl, text_answers (.inr ⟨cs, rfl⟩) (drawString_answers cs s)⟩

/-- Every command answers a next state (R72, R134): its writes with `CP` moved past it, or the entry of a fault. -/
theorem exec_cases (i : Instr) (s : State) :
    (∃ u, Written s i u ∧ exec i s = .next (u.advance i.length)) ∨
    ∃ k, MayRaise i k ∧ exec i s = .next (s.takeFault k) := by
  obtain ⟨r, hexec, hr⟩ := exec_eq_finish i s
  cases r with
  | ok u => exact .inl ⟨u, hr, hexec⟩
  | error k => exact .inr ⟨k, hr, hexec⟩

/-- A command that leaves `FAULT = 0` has completed. -/
theorem written_of_exec {i : Instr} {s t : State} (h : exec i s = .next t) (hf : t.fault = false) :
    ∃ u, Written s i u ∧ t = u.advance i.length := by
  rcases exec_cases i s with ⟨u, hu, he⟩ | ⟨k, -, he⟩
  · rw [he] at h
    cases h
    exact ⟨u, hu, rfl⟩
  · rw [he] at h
    cases h
    simp at hf

/-- A step runs an unfaulted engine inside its stream (R72, R73, R134): it completes a command that lies wholly in the
stream, or takes a fault. -/
theorem step_cases {s t : State} (h : step s = .next t) :
    s.fault = false ∧ s.admitted = true ∧ s.cp.toNat < s.cs.size ∧
    ((∃ i u, i.length ≤ s.cs.size - s.cp.toNat ∧ Written s i u ∧ t = u.advance i.length) ∨
      ∃ k, t = s.takeFault k) := by
  unfold step at h
  split at h
  · cases h
  rename_i hf
  split at h
  · cases h
  rename_i ha
  split at h
  · cases h
  rename_i hfinal
  split at h
  · cases h
  rename_i hcp
  have hne : s.cp.toNat ≠ s.cs.size := by simpa [State.isFinal, hf] using hfinal
  refine ⟨by simpa using hf, by simpa using ha, by omega, ?_⟩
  split at h
  · rename_i i hi
    have hlen := length_le_of_decode hi
    rw [State.fetchBytes_length] at hlen
    rcases exec_cases i s with ⟨u, hu, he⟩ | ⟨k, -, he⟩
    · rw [he] at h
      cases h
      exact .inl ⟨i, u, by omega, hu, rfl⟩
    · rw [he] at h
      cases h
      exact .inr ⟨k, rfl⟩
  · cases h
    exact .inr ⟨_, rfl⟩

end Sys2Proof.Machine
end

section
/-! SUPPORT. What completing a command leaves unchanged, which commands write a register, and the invariant. -/

namespace Sys2Proof.Machine

/-- Drawing writes the cursor, the dirty rectangle and `FB` only. -/
theorem State.DrawsTo.keeps {s t : State} {cx cy : Byte} (h : s.DrawsTo cx cy t) :
    t.mode = s.mode ∧ t.fonten = s.fonten ∧ t.res = s.res ∧ t.cp = s.cp ∧ t.fault = s.fault ∧ t.fcode = s.fcode := by
  obtain ⟨ims, x, y, w, h, -, rfl⟩ := h
  exact ⟨rfl, rfl, rfl, rfl, rfl, rfl⟩

theorem State.DrawsTo.surroundings {s t : State} {cx cy : Byte} (h : s.DrawsTo cx cy t) : SameSurroundings s t := by
  obtain ⟨ims, x, y, w, h, -, rfl⟩ := h
  exact ⟨⟨rfl, rfl, rfl, rfl, rfl⟩, rfl, rfl, rfl⟩

/-- No command writes `STATUS` or the parameters of the run while it completes, and `CP` moves after it (R72). -/
theorem Written.keeps {s t : State} {i : Instr} (h : Written s i t) :
    t.cp = s.cp ∧ t.fault = s.fault ∧ t.fcode = s.fcode ∧ SameParams s t := by
  cases h with
  | drawn _ _ _ _ _ ht =>
    obtain ⟨-, -, -, hcp, hf, hfc⟩ := ht.keeps
    exact ⟨hcp, hf, hfc, ht.surroundings.params⟩
  | _ => exact ⟨rfl, rfl, rfl, ⟨rfl, rfl, rfl, rfl, rfl⟩⟩

/-- Only FLUSH reaches the host's side (R85). -/
theorem Written.surroundings {s t : State} {i : Instr} (h : Written s i t) (hi : i ≠ .flush) :
    SameSurroundings s t := by
  cases h with
  | flushed => exact absurd rfl hi
  | drawn _ _ _ _ _ ht => exact ht.surroundings
  | _ => exact ⟨⟨rfl, rfl, rfl, rfl, rfl⟩, rfl, rfl, rfl⟩

/-- A command clears `FB` or combines bytes inside it with masks (R39, R43, R130). -/
theorem Written.fb {s t : State} {i : Instr} (h : Written s i t) :
    t.fb = ⟨.zero, []⟩ ∨
      ∃ ims : List (Nat × Byte), (∀ im ∈ ims, im.1 < s.fbSize) ∧ t.fb = applyMasks s.mode ims s.fb := by
  cases h with
  | drawn _ _ _ _ _ ht =>
    obtain ⟨ims, x, y, w, h, hims, rfl⟩ := ht
    exact .inr ⟨ims, hims, rfl⟩
  | cleared => exact .inl rfl
  | _ => exact .inr ⟨[], by simp, rfl⟩

/-- No draw of a free value is taken back. -/
theorem Written.draws_le {s t : State} {i : Instr} (h : Written s i t) : s.draws ≤ t.draws := by
  cases h with
  | flushed => exact Nat.le_add_right _ _
  | drawn _ _ _ _ _ ht => exact ht.surroundings.draws.ge
  | _ => exact le_rfl

theorem SameParams.fbSize {s t : State} (h : SameParams s t) : t.fbSize = s.fbSize := by
  simp only [State.fbSize, State.w, State.pages, h.width, h.height]

theorem SameParams.admitted {s t : State} (h : SameParams s t) : t.admitted = s.admitted := by
  unfold State.admitted State.w
  rw [h.width, h.fm, h.bm, h.cs]

/-! ## Which commands write a register (R24 to R28, R41) -/

section
variable {s t : State} {i : Instr} (h : Written s i t)
include h

theorem Written.mode_ne (hne : t.mode ≠ s.mode) : ∃ m, i = .setmode m := by
  cases h with
  | mode m => exact ⟨m, rfl⟩
  | drawn _ _ _ _ _ ht => simp [ht.keeps] at hne
  | _ => exact absurd rfl hne

theorem Written.fonten_ne (hne : t.fonten ≠ s.fonten) : ∃ en, i = .setfont en := by
  cases h with
  | font en => exact ⟨en, rfl⟩
  | drawn _ _ _ _ _ ht => simp [ht.keeps] at hne
  | _ => exact absurd rfl hne

theorem Written.res_ne (hne : t.res ≠ s.res) : i = .flush ∨ (∃ c, i = .widthc c) ∨ ∃ cs, i = .widths cs := by
  cases h with
  | flushed => exact .inl rfl
  | result _ _ hi => exact .inr hi
  | drawn _ _ _ _ _ ht => simp [ht.keeps] at hne
  | _ => exact absurd rfl hne

theorem Written.curx_ne (hne : t.curx ≠ s.curx) :
    (∃ x y, i = .moveto x y) ∨ (∃ x y, i = .lineto x y) ∨ (∃ c, i = .drawchar c) ∨ ∃ cs, i = .drawstr cs := by
  cases h with
  | cursor x y => exact .inl ⟨x, y, rfl⟩
  | drawn _ cx cy _ hi ht =>
    obtain rfl | ⟨-, hx, -⟩ | ⟨hi, -⟩ := hi
    · exact .inr (.inl ⟨cx, cy, rfl⟩)
    · exact absurd (ht.cursor.1.trans hx) hne
    · exact .inr (.inr hi)
  | _ => exact absurd rfl hne

theorem Written.cury_ne (hne : t.cury ≠ s.cury) : (∃ x y, i = .moveto x y) ∨ ∃ x y, i = .lineto x y := by
  cases h with
  | cursor x y => exact .inl ⟨x, y, rfl⟩
  | drawn _ cx cy _ hi ht =>
    obtain rfl | ⟨-, -, hy⟩ | ⟨-, hy⟩ := hi
    · exact .inr ⟨cx, cy, rfl⟩
    · exact absurd (ht.cursor.2.trans hy) hne
    · exact absurd (ht.cursor.2.trans hy) hne
  | _ => exact absurd rfl hne

theorem Written.fb_ne (hne : t.fb ≠ s.fb) :
    i = .clear ∨ (shapeCalls s i).isSome = true ∨ (∃ c, i = .drawchar c) ∨ ∃ cs, i = .drawstr cs := by
  cases h with
  | cleared => exact .inl rfl
  | drawn _ _ _ _ hi => exact .inr hi.shape_or_text
  | _ => exact absurd rfl hne

theorem Written.dirty_ne (hne : t.dirty ≠ s.dirty) :
    i = .clear ∨ i = .invalidate ∨ i = .validate ∨ i = .flush ∨ (∃ l u w h, i = .markdirty l u w h) ∨
      (shapeCalls s i).isSome = true ∨ (∃ c, i = .drawchar c) ∨ ∃ cs, i = .drawstr cs := by
  cases h with
  | cleared => simp
  | flushed => simp
  | dirty _ _ _ _ _ hi => rcases hi with hi | hi | hi <;> simp [hi]
  | drawn _ _ _ _ hi => simp [hi.shape_or_text]
  | _ => exact absurd rfl hne

end

/-! ## The invariant -/

/-- The part of the invariant that speaks of `FB` survives the writes of any command (R36, R37, R39). -/
theorem Written.inv_fb {s t : State} {i : Instr} (h : Written s i t) (hs : s.Inv) :
    t.fb.wf = true ∧ (∀ c ∈ t.fb.cells, c.1 < s.fbSize) ∧ ∀ k, t.fb.fill = .free k → k < t.draws := by
  obtain hfb | ⟨ims, hims, hfb⟩ := h.fb
  · simp [hfb]
  · rw [hfb]
    refine ⟨applyMasks_wf _ _ _ hs.fbCanonical, fun c hc => ?_, fun k hk => ?_⟩
    · rcases applyMasks_mem _ _ _ c hc with hc | ⟨im, him, hc⟩
      · exact hs.fbInside c hc
      · exact hc ▸ hims im him
    · rw [applyMasks_fill] at hk
      exact (hs.fillDrawn k hk).trans_le h.draws_le

/-- A completed command that lies wholly in the stream moves `CP` past it without wrapping (R30). -/
theorem Written.cp_advance {s u : State} {i : Instr} (h : Written s i u) (ha : s.admitted = true)
    (hcp : s.cp.toNat < s.cs.size) (hlen : i.length ≤ s.cs.size - s.cp.toNat) :
    (u.advance i.length).cp.toNat = s.cp.toNat + i.length := by
  have hsize : s.cs.size ≤ 65535 := by
    simp only [State.admitted, Bool.and_eq_true, decide_eq_true_eq] at ha
    exact ha.2
  rw [State.advance_cp, h.keeps.1, BitVec.toNat_add, BitVec.toNat_ofNat]
  omega

theorem State.Inv.advance {s u : State} {i : Instr} (hs : s.Inv) (h : Written s i u) (hcp : s.cp.toNat < s.cs.size)
    (hlen : i.length ≤ s.cs.size - s.cp.toNat) : (u.advance i.length).Inv := by
  obtain ⟨-, hf, hfc, hparams⟩ := h.keeps
  obtain ⟨hwf, hinside, hfill⟩ := h.inv_fb hs
  refine ⟨hparams.admitted.trans hs.admitted, hwf, ?_, ?_, ?_, hfill⟩
  · exact fun c hc => hparams.fbSize ▸ hinside c hc
  · rw [h.cp_advance hs.admitted hcp hlen, State.advance_cs, hparams.cs]
    omega
  · simpa [State.statusLegal, hf, hfc] using hs.statusLegal

theorem State.takeFault_imprecise (s : State) (k : FaultCode) (h : Imprecise k) :
    s.takeFault k = s.unspecify.setFault k := by
  simp [State.takeFault, h]

/-- A fault entry leaves `FB` as it was, or all of it free with the draw it makes (R134). -/
theorem State.Inv.takeFault {s : State} (hs : s.Inv) (k : FaultCode) : (s.takeFault k).Inv := by
  have hstatus : 1 ≤ k.code.toNat ∧ k.code.toNat ≤ 4 := k.code_range
  cases hk : k.precise with
  | true =>
    rw [s.takeFault_precise k hk]
    exact ⟨hs.admitted, hs.fbCanonical, hs.fbInside, hs.cpInside, .inr ⟨rfl, hstatus⟩, hs.fillDrawn⟩
  | false =>
    rw [s.takeFault_imprecise k hk]
    refine ⟨hs.admitted, rfl, fun c hc => (nomatch hc), hs.cpInside, .inr ⟨rfl, hstatus⟩, fun j hj => ?_⟩
    cases hj
    exact Nat.lt_add_of_pos_right (by decide)

end Sys2Proof.Machine
end

section
/-! PROOFS. The statements of `10_state.md`: reset, the invariant, `CP`, the register port and the write sets. -/

namespace Sys2Proof.Machine

/-- Settles O11: a step completes a command or takes a fault, and each keeps the invariant. -/
theorem stepKeepsTheInvariant : Obligations.StepKeepsTheInvariant := by
  intro s t hs h
  obtain ⟨-, -, hcp, ⟨i, u, hlen, hu, rfl⟩ | ⟨k, rfl⟩⟩ := step_cases h
  · exact hs.advance hu hcp hlen
  · exact hs.takeFault k

/-- Settles O7: a command ends as `State.finish` ends its effect, which writes neither `CP` nor `STATUS`. -/
theorem commandPointerAdvancesByTheLength : Obligations.CommandPointerAdvancesByTheLength := by
  intro i s
  rcases exec_cases i s with ⟨u, hu, he⟩ | ⟨k, hk, he⟩
  · obtain ⟨hcp, hf, hfc, -⟩ := hu.keeps
    exact ⟨_, he, .inl ⟨by rw [State.advance_cp, hcp], hf, hfc⟩⟩
  · exact ⟨_, he, .inr ⟨by simp, by simp, by simpa using hk.code⟩⟩

/-- Settles O8: the command completed lies in the stream, of at most 65535 bytes, so that `CP` cannot wrap. -/
theorem stepsMoveForwardAndKeepTheParameters : Obligations.StepsMoveForwardAndKeepTheParameters := by
  intro s t h
  obtain ⟨hf, ha, hcp, ⟨i, u, hlen, hu, rfl⟩ | ⟨k, rfl⟩⟩ := step_cases h
  · obtain ⟨-, hfu, -, hparams⟩ := hu.keeps
    have hpos := i.length_pos
    have hmove := hu.cp_advance ha hcp hlen
    refine ⟨fun _ => by omega, fun hft => ?_, ⟨hparams.width, hparams.height, hparams.fm, hparams.bm, hparams.cs⟩⟩
    simp [hfu, hf] at hft
  · exact ⟨by simp, by simp, ⟨by simp, by simp, by simp, by simp, by simp⟩⟩

/-- Settles O57: along the writes of `Written`, one lemma per register. -/
theorem onlyTheNamedCommandsWrite : Obligations.OnlyTheNamedCommandsWrite := by
  intro i s t h hf
  obtain ⟨u, hu, rfl⟩ := written_of_exec h hf
  obtain ⟨-, hfault, hfcode, -⟩ := hu.keeps
  refine ⟨hu.mode_ne, hu.fonten_ne, hu.res_ne, hu.curx_ne, hu.cury_ne, hu.fb_ne, hu.dirty_ne, fun hn => ?_, hfault,
    hfcode⟩
  by_contra hi
  obtain ⟨⟨hw, hh, hfm, hbm, hcs⟩, ha, ht, hd⟩ := hu.surroundings hi
  exact hn ⟨⟨hw, hh, hfm, hbm, hcs⟩, ha, ht, hd⟩

/-- Settles O10: `FB` lists nothing after reset, and its content is the draw the reset makes. -/
theorem resetMeetsTheInvariant : Obligations.ResetMeetsTheInvariant := by
  have hreset : ∀ (p : RunParams) (draw : Nat), p.admitted = true → (State.afterReset p draw).Inv := by
    intro p draw hp
    refine ⟨hp, rfl, fun c hc => (nomatch hc), Nat.zero_le _, .inl ⟨rfl, rfl⟩, fun k hk => ?_⟩
    cases hk
    exact Nat.lt_succ_self draw
  exact ⟨hreset, hreset _ _ rfl⟩

theorem State.ctrl_toNat (s : State) :
    s.ctrl.toNat = (match s.mode with | .set => 0 | .clear => 1 | .invert => 2) + 4 * s.fonten.toNat := by
  unfold State.ctrl
  cases s.mode <;> cases s.fonten <;> rfl

theorem State.status_toNat (s : State) : s.status.toNat = s.fault.toNat + 2 * s.fcode.toNat := by
  unfold State.status
  generalize s.fcode = c
  cases s.fault <;> revert c <;> decide

/-- Settles O14: the packed registers bit by bit, the others as they stand. -/
theorem registerPortReadsTheRegisters : Obligations.RegisterPortReadsTheRegisters := by
  intro s
  refine ⟨rfl, ?_, ?_, rfl, rfl, rfl, rfl, rfl, rfl, s.ctrl_toNat, s.status_toNat, ?_, ?_, fun a ha => ?_⟩
  · change (BitVec.ofNat 8 s.height.rows).toNat = s.height.rows
    cases s.height <;> rfl
  · change (BitVec.ofNat 8 s.height.pages).toNat = s.height.rows / 8
    cases s.height <;> rfl
  · exact BitVec.extractLsb'_toNat 0 8 s.res
  · have hres := s.res.isLt
    refine (BitVec.extractLsb'_toNat 8 8 s.res).trans ?_
    rw [Nat.shiftRight_eq_div_pow]
    omega
  · unfold State.readPort
    split
    case h_14 => rfl
    all_goals omega

end Sys2Proof.Machine
end

section
/-! SUPPORT. On the display every pixel has a byte and a bit of its own, and every bit of `FB` is a pixel's (R38, R39). -/

namespace Sys2Proof.Machine

/-- For the heights of R8 the page mask of R38 is the identity on the display's rows. -/
theorem Height.pageOf_eq (h : Height) {y : Nat} (hy : y < h.rows) : pageOf h.pages y = y / 8 := by
  obtain ⟨k, hpages, hrows⟩ : ∃ k, h.pages = 2 ^ k ∧ h.rows = 8 * 2 ^ k := by
    cases h
    exacts [⟨0, rfl, rfl⟩, ⟨1, rfl, rfl⟩, ⟨2, rfl, rfl⟩, ⟨3, rfl, rfl⟩, ⟨4, rfl, rfl⟩]
  rw [pageOf, hpages, Nat.and_two_pow_sub_one_eq_mod, Nat.shiftRight_eq_div_pow]
  exact Nat.mod_eq_of_lt (by omega)

theorem State.pageOf_eq (s : State) {y : Nat} (hy : y < s.h) : pageOf s.pages y = y / 8 :=
  Height.pageOf_eq s.height hy

theorem State.fbIndex_eq (s : State) (x : Nat) {y : Nat} (hy : y < s.h) : s.fbIndex x y = x + y / 8 * s.w := by
  rw [State.fbIndex, s.pageOf_eq hy]

theorem State.h_eq (s : State) : s.h = 8 * s.pages := by
  unfold State.h State.pages
  cases s.height <;> rfl

theorem State.w_le (s : State) : s.w ≤ 255 := Nat.le_of_lt_succ s.width.isLt

theorem State.h_le (s : State) : s.h ≤ 128 := by
  unfold State.h
  cases s.height <;> decide

/-- A byte of `FB` is of one column and one page. -/
theorem pageByte_inj {w x x' p p' : Nat} (hx : x < w) (hx' : x' < w) :
    x + p * w = x' + p' * w ↔ x = x' ∧ p = p' := by
  refine ⟨fun h => ⟨?_, ?_⟩, by rintro ⟨rfl, rfl⟩; rfl⟩
  · simpa [Nat.mod_eq_of_lt, hx, hx'] using congrArg (· % w) h
  · have hw : 0 < w := Nat.zero_lt_of_lt hx
    simpa [Nat.add_mul_div_right, Nat.div_eq_of_lt, hw, hx, hx'] using congrArg (· / w) h

/-- Two pixels of the display that share a byte and a bit are one pixel. -/
theorem State.pixel_inj (s : State) {x y u v : Nat} (hx : x < s.w) (hy : y < s.h) (hu : u < s.w) (hv : v < s.h) :
    s.fbIndex x y = s.fbIndex u v ∧ y % 8 = v % 8 ↔ x = u ∧ y = v := by
  rw [s.fbIndex_eq x hy, s.fbIndex_eq u hv, pageByte_inj hx hu]
  omega

/-- Every bit of a byte of `FB` is a pixel of the display. -/
theorem State.exists_pixel (s : State) {a k : Nat} (ha : a < s.fbSize) (hk : k < 8) :
    ∃ u v, u < s.w ∧ v < s.h ∧ a = s.fbIndex u v ∧ v % 8 = k := by
  have hw : 0 < s.w := Nat.pos_of_mul_pos_right (Nat.zero_lt_of_lt ha)
  have hpage : a / s.w < s.pages := Nat.div_lt_of_lt_mul ha
  have hv : 8 * (a / s.w) + k < s.h := by rw [s.h_eq]; omega
  refine ⟨a % s.w, 8 * (a / s.w) + k, Nat.mod_lt _ hw, hv, ?_, by omega⟩
  rw [s.fbIndex_eq _ hv, show (8 * (a / s.w) + k) / 8 = a / s.w by omega]
  exact (Nat.mod_add_div' a s.w).symm

end Sys2Proof.Machine
end

section
/-! SUPPORT. The sink's masks and the draw modes, bit by bit (R43 to R46). -/

namespace Sys2Proof.Machine

theorem bitOfRow_getLsbD (y : Nat) {k : Nat} (hk : k < 8) : (bitOfRow y).getLsbD k = decide (k = y % 8) := by
  have hbits : ∀ r < 8, ∀ k < 8, (1#8 <<< r).getLsbD k = decide (k = r) := by decide
  exact hbits _ (Nat.mod_lt _ (by decide)) k hk

theorem topPattern_getLsbD (top : Nat) {k : Nat} (hk : k < 8) :
    (topPattern top).getLsbD k = decide (top % 8 ≤ k) := by
  have hbits : ∀ r < 8, ∀ k < 8, (0xFF#8 <<< r).getLsbD k = decide (r ≤ k) := by decide
  exact hbits _ (Nat.mod_lt _ (by decide)) k hk

theorem bottomPattern_getLsbD (bottom : Nat) {k : Nat} (hk : k < 8) :
    (bottomPattern bottom).getLsbD k = decide (k ≤ bottom % 8) := by
  have hbits : ∀ r < 8, ∀ k < 8, ((0x02#8 <<< r) - 1#8).getLsbD k = decide (k ≤ r) := by decide
  exact hbits _ (Nat.mod_lt _ (by decide)) k hk

@[simp] theorem blendBit_zero (mode : DrawMode) (old : Bool) : blendBit mode old 0 = old := by
  cases mode <;> simp [blendBit]

/-- Covering a pixel `m` times and then `n` times is covering it `m + n` times (R48). -/
theorem blendBit_blendBit (mode : DrawMode) (old : Bool) (m n : Nat) :
    blendBit mode (blendBit mode old m) n = blendBit mode old (m + n) := by
  cases mode with
  | set =>
    have : 1 ≤ m + n ↔ 1 ≤ m ∨ 1 ≤ n := by omega
    simp [blendBit, this, Bool.or_assoc]
  | clear => simp [blendBit, Bool.and_assoc]
  | invert =>
    rcases Nat.mod_two_eq_zero_or_one m with hm | hm <;> rcases Nat.mod_two_eq_zero_or_one n with hn | hn <;>
      simp [blendBit, Nat.add_mod, hm, hn]

/-- A mask covers the bits it has set once and the others not at all (R43). -/
theorem blend_getLsbD (mode : DrawMode) (old mask : Byte) {k : Nat} (hk : k < 8) :
    (blend mode old mask).getLsbD k = blendBit mode (old.getLsbD k) (if mask.getLsbD k then 1 else 0) := by
  cases mode with
  | set => rw [blend, BitVec.getLsbD_or]; cases mask.getLsbD k <;> simp [blendBit]
  | clear => rw [blend, BitVec.getLsbD_and, BitVec.getLsbD_not]; cases mask.getLsbD k <;> simp [blendBit, hk]
  | invert => rw [blend, BitVec.getLsbD_xor]; cases mask.getLsbD k <;> simp [blendBit]

end Sys2Proof.Machine
end

section
/-! SUPPORT. What a sequence of `Apply` calls leaves in a bit: the draw mode and how many of its masks name the bit
decide it (R43, R48). -/

namespace Sys2Proof.Machine

/-- The `Apply` call `im` names bit `k` of the byte at `a`. -/
def appliesTo (a k : Nat) (im : Nat × Byte) : Bool := im.1 == a && im.2.getLsbD k

theorem applyMask_getLsbD (mode : DrawMode) (im : Nat × Byte) (fb : Memory) (a : Nat) {k : Nat} (hfb : fb.wf = true)
    (hk : k < 8) : ((applyMask mode fb im.1 im.2).read a).getLsbD k =
      blendBit mode ((fb.read a).getLsbD k) (if appliesTo a k im then 1 else 0) := by
  rw [applyMask, fb.read_write _ _ _ hfb]
  split
  · rename_i ha
    simp [blend_getLsbD _ _ _ hk, appliesTo, ha]
  · rename_i ha
    have hname : appliesTo a k im = false := by simp [appliesTo, Ne.symm ha]
    simp [hname]

theorem applyMasks_getLsbD (mode : DrawMode) (ims : List (Nat × Byte)) (fb : Memory) (a : Nat) {k : Nat}
    (hfb : fb.wf = true) (hk : k < 8) : ((applyMasks mode ims fb).read a).getLsbD k =
      blendBit mode ((fb.read a).getLsbD k) (ims.countP (appliesTo a k)) := by
  induction ims generalizing fb with
  | nil => simp [applyMasks]
  | cons im rest ih =>
    have hstep : (applyMask mode fb im.1 im.2).wf = true := fb.wf_write _ _ hfb
    rw [applyMasks, ih _ hstep, applyMask_getLsbD _ _ _ _ hfb hk, blendBit_blendBit, List.countP_cons,
      Nat.add_comm]

/-- Masks that name every bit equally often leave the same framebuffer (R48). -/
theorem applyMasks_congr (mode : DrawMode) (ims ims' : List (Nat × Byte)) (fb : Memory) (hfb : fb.wf = true)
    (h : ∀ a k, k < 8 → ims.countP (appliesTo a k) = ims'.countP (appliesTo a k)) :
    applyMasks mode ims fb = applyMasks mode ims' fb := by
  refine Memory.ext_of_wf _ _ (applyMasks_wf _ _ _ hfb) (applyMasks_wf _ _ _ hfb) (by simp) fun a => ?_
  refine BitVec.eq_of_getLsbD_eq fun k hk => ?_
  rw [applyMasks_getLsbD _ _ _ _ hfb hk, applyMasks_getLsbD _ _ _ _ hfb hk, h a k hk]

theorem applyMasks_perm (mode : DrawMode) {ims ims' : List (Nat × Byte)} (fb : Memory) (hfb : fb.wf = true)
    (h : ims.Perm ims') : applyMasks mode ims fb = applyMasks mode ims' fb :=
  applyMasks_congr mode ims ims' fb hfb fun _ _ _ => h.countP_eq _

end Sys2Proof.Machine
end

section
/-! SUPPORT. The masks of a sink call name the bits of the pixels it covers, each once (R44 to R48). -/

namespace Sys2Proof.Machine

/-- In a range of numbers one number is met once, or not at all. -/
theorem countP_range'_of_iff {p : Nat → Bool} {a n u : Nat} {Q : Prop} [Decidable Q]
    (h : ∀ x ∈ List.range' a n, p x = true ↔ x = u ∧ Q) :
    (List.range' a n).countP p = if (a ≤ u ∧ u < a + n) ∧ Q then 1 else 0 := by
  by_cases hQ : Q
  · have hcount := (List.nodup_range' (s := a) (n := n) 1).count (a := u)
    rw [List.countP_congr (q := (· == u)) (by simpa [hQ] using h)]
    simpa [hQ, List.count] using hcount
  · rw [if_neg (by simp [hQ]), List.countP_eq_zero]
    exact fun x hx hp => hQ ((h x hx).mp hp).2

section
variable (s : State) {u v : Nat} (hu : u < s.w) (hv : v < s.h)
include hu hv

theorem appliesTo_pixel {x y : Nat} (hx : x < s.w) (hy : y < s.h) :
    appliesTo (s.fbIndex u v) (v % 8) (s.fbIndex x y, bitOfRow y) = true ↔ x = u ∧ y = v := by
  rw [← s.pixel_inj hx hy hu hv]
  simp [appliesTo, bitOfRow_getLsbD y (Nat.mod_lt v (by decide)), eq_comm (a := v % 8)]

/-- The mask `m` stored at column `x` of page `p` names pixel `(u, v)` where it is of that column and page, and `m` has
its bit. -/
theorem appliesTo_pageByte {x : Nat} (p : Nat) (m : Byte) (hx : x < s.w) :
    appliesTo (s.fbIndex u v) (v % 8) (x + p * s.w, m) = true ↔ (x = u ∧ p = v / 8) ∧ m.getLsbD (v % 8) = true := by
  simp [appliesTo, s.fbIndex_eq u hv, pageByte_inj hx hu]

theorem pixelWrites_countP {x y : Nat} (hx : x < s.w) (hy : y < s.h) :
    (pixelWrites s x y).countP (appliesTo (s.fbIndex u v) (v % 8)) = if x = u ∧ y = v then 1 else 0 := by
  simp only [pixelWrites, List.countP_singleton, appliesTo_pixel s hu hv hx hy]

theorem hrunWrites_countP {l r y : Nat} (hl : l ≤ r) (hr : r < s.w) (hy : y < s.h) :
    (hrunWrites s l r y).countP (appliesTo (s.fbIndex u v) (v % 8)) =
      if (l ≤ u ∧ u ≤ r) ∧ y = v then 1 else 0 := by
  rw [hrunWrites, List.countP_map, countP_range'_of_iff (u := u) (Q := y = v)]
  · simp only [show l + (r + 1 - l) = r + 1 by omega, Nat.lt_succ_iff]
  · intro x hx
    rw [List.mem_range'_1] at hx
    exact appliesTo_pixel s hu hv (by omega) hy

/-- The pages of a vertical run, the first and the last with a mask of their own (R46), have each of its rows once. -/
theorem vrunWrites_countP {x t b : Nat} (hx : x < s.w) (ht : t ≤ b) (hb : b < s.h) :
    (vrunWrites s x t b).countP (appliesTo (s.fbIndex u v) (v % 8)) =
      if (x = u ∧ t ≤ v) ∧ v ≤ b then 1 else 0 := by
  have hk : v % 8 < 8 := Nat.mod_lt v (by decide)
  have hfull : (0xFF#8).getLsbD (v % 8) = true := (by decide : ∀ k < 8, (0xFF#8).getLsbD k = true) _ hk
  rw [vrunWrites, s.pageOf_eq (ht.trans_lt hb), s.pageOf_eq hb]
  split
  · simp only [List.countP_singleton, appliesTo_pageByte s hu hv _ _ hx, BitVec.getLsbD_and, topPattern_getLsbD t hk,
      bottomPattern_getLsbD b hk, Bool.and_eq_true, decide_eq_true_eq]
    split_ifs <;> omega
  · have hmiddle := countP_range'_of_iff (a := t / 8 + 1) (n := b / 8 - (t / 8 + 1)) (u := v / 8) (Q := x = u)
      (p := fun p => appliesTo (s.fbIndex u v) (v % 8) (x + p * s.w, 0xFF#8)) fun p _ => by
        rw [appliesTo_pageByte s hu hv p _ hx, and_iff_left hfull, and_comm]
    simp only [List.countP_cons, List.countP_append, List.countP_map, Function.comp_def, hmiddle, List.countP_nil,
      appliesTo_pageByte s hu hv _ _ hx, topPattern_getLsbD t hk, bottomPattern_getLsbD b hk, decide_eq_true_eq]
    split_ifs <;> omega

theorem SinkCall.writes_countP (c : SinkCall) (hc : c.inDomain s = true) :
    (c.writes s).countP (appliesTo (s.fbIndex u v) (v % 8)) = if c.covers u v then 1 else 0 := by
  cases c <;> simp only [SinkCall.inDomain, Bool.and_eq_true, decide_eq_true_eq] at hc
  case pixel x y =>
    simp only [SinkCall.writes, pixelWrites_countP s hu hv hc.1 hc.2, SinkCall.covers, Bool.and_eq_true, beq_iff_eq]
  case hrun l r y =>
    obtain ⟨⟨hl, hr⟩, hy⟩ := hc
    simp only [SinkCall.writes, hrunWrites_countP s hu hv hl hr hy, SinkCall.covers, Bool.and_eq_true, beq_iff_eq,
      decide_eq_true_eq]
  case vrun x t b =>
    obtain ⟨⟨hx, ht⟩, hb⟩ := hc
    simp only [SinkCall.writes, vrunWrites_countP s hu hv hx ht hb, SinkCall.covers, Bool.and_eq_true, beq_iff_eq,
      decide_eq_true_eq]

/-- The masks of a sequence of sink calls name a pixel's bit as often as the calls cover the pixel (R48). -/
theorem flatMap_writes_countP (calls : List SinkCall) (h : calls.all (SinkCall.inDomain s) = true) :
    (calls.flatMap (SinkCall.writes s)).countP (appliesTo (s.fbIndex u v) (v % 8)) = multiplicity calls u v := by
  induction calls with
  | nil => rfl
  | cons c rest ih =>
    simp only [List.all_cons, Bool.and_eq_true] at h
    rw [List.flatMap_cons, List.countP_append, ih h.2, SinkCall.writes_countP s hu hv c h.1, multiplicity, multiplicity,
      List.countP_cons, Nat.add_comm]

end

/-- No mask of a sink call in its domain names a bit outside `FB` (R39). -/
theorem flatMap_writes_countP_outside (s : State) (calls : List SinkCall) (h : calls.all (SinkCall.inDomain s) = true)
    {a : Nat} (k : Nat) (ha : ¬ a < s.fbSize) :
    (calls.flatMap (SinkCall.writes s)).countP (appliesTo a k) = 0 := by
  rw [List.countP_eq_zero]
  intro im him
  obtain ⟨c, hc, him⟩ := List.mem_flatMap.mp him
  have hin := SinkCall.writes_lt s c (List.all_eq_true.mp h c hc) im him
  have hne : im.1 ≠ a := fun heq => ha (heq ▸ hin)
  simp [appliesTo, hne]

/-- The pixels after a sequence of sink calls that does not fault (R48). -/
theorem pixelAt_of_runSinks {s t : State} {calls : List SinkCall} (hfb : s.fb.wf = true)
    (h : runSinks calls s = .ok t) {u v : Nat} (hu : u < s.w) (hv : v < s.h) :
    t.pixelAt u v = blendBit s.mode (s.pixelAt u v) (multiplicity calls u v) := by
  rw [runSinks_eq] at h
  split at h
  · rename_i hdom
    cases h
    rw [← flatMap_writes_countP s hu hv calls hdom]
    exact applyMasks_getLsbD _ _ _ _ hfb (Nat.mod_lt v (by decide))
  · cases h

/-- Sink calls on the display that cover every pixel equally often are one effect (R47, R48). -/
theorem runSinks_congr {s : State} {calls calls' : List SinkCall} (hfb : s.fb.wf = true)
    (hdom : calls.all (SinkCall.inDomain s) = true) (hdom' : calls'.all (SinkCall.inDomain s) = true)
    (h : ∀ u v, u < s.w → v < s.h → multiplicity calls u v = multiplicity calls' u v) :
    runSinks calls s = runSinks calls' s := by
  rw [runSinks_eq, runSinks_eq, if_pos hdom, if_pos hdom',
    applyMasks_congr s.mode _ (calls'.flatMap (SinkCall.writes s)) s.fb hfb]
  intro a k hk
  by_cases ha : a < s.fbSize
  · obtain ⟨u, v, hu, hv, rfl, rfl⟩ := s.exists_pixel ha hk
    rw [flatMap_writes_countP s hu hv _ hdom, flatMap_writes_countP s hu hv _ hdom', h u v hu hv]
  · rw [flatMap_writes_countP_outside s calls hdom k ha, flatMap_writes_countP_outside s calls' hdom' k ha]

/-- The order of sink calls is of no effect (R48). -/
theorem runSinks_perm {s : State} {calls calls' : List SinkCall} (hfb : s.fb.wf = true) (h : calls.Perm calls') :
    runSinks calls s = runSinks calls' s := by
  rw [runSinks_eq, runSinks_eq, h.all_eq, applyMasks_perm s.mode s.fb hfb (h.flatMap_right _)]

end Sys2Proof.Machine
end

section
/-! SUPPORT. Sink calls on the numbers their arguments stand for: the domain (R41, R42), and the pixels of a run one by
one (R47). -/

namespace Sys2Proof.Machine

theorem wrap8_toNat (a : Int) : (wrap8 a).toNat = (a % 256).toNat := BitVec.toNat_ofInt a

theorem wrap8_natCast_toNat {n : Nat} (hn : n < 256) : (wrap8 n).toNat = n := by
  rw [wrap8_toNat]
  omega

/-- A sink call completes, changing `FB` only, where its arguments meet its domain, and else raises `SinkRange` (R42). -/
theorem SinkCall.run_of_inDomain_iff {s : State} {c : SinkCall} {P : Prop} [Decidable P]
    (h : c.inDomain s = true ↔ P) :
    if P then ∃ m, c.run s = .ok { s with fb := m } else c.run s = .error .sinkRange := by
  split
  · rename_i hP
    exact ⟨_, c.run_inside s (h.mpr hP)⟩
  · rename_i hP
    exact c.run_outside s (Bool.eq_false_iff.mpr fun hc => hP (h.mp hc))

theorem runSinks_singleton (c : SinkCall) (s : State) : runSinks [c] s = c.run s := by
  rw [runSinks]
  cases c.run s <;> rfl

theorem pixel_inDomain {s : State} {x y : Nat} (hx : x < s.w) (hy : y < s.h) :
    (SinkCall.pixel x y).inDomain s = true := by
  have hw := s.w_le
  have hh := s.h_le
  simp [SinkCall.inDomain, wrap8_natCast_toNat (show x < 256 by omega), wrap8_natCast_toNat (show y < 256 by omega),
    hx, hy]

theorem pixel_covers_iff {x y : Nat} (u v : Nat) (hx : x < 256) (hy : y < 256) :
    (SinkCall.pixel x y).covers u v = true ↔ x = u ∧ y = v := by
  simp [SinkCall.covers, wrap8_natCast_toNat hx, wrap8_natCast_toNat hy]

/-- A call on the display that covers every pixel as often as a row or column of pixels does is those pixels. -/
theorem run_eq_runSinks_pixels {s : State} {c : SinkCall} {a n : Nat} {pixel : Nat → SinkCall} (hfb : s.fb.wf = true)
    (hc : c.inDomain s = true) (hpixel : ∀ x ∈ List.range' a n, (pixel x).inDomain s = true)
    (hcover : ∀ u v, (List.range' a n).countP (fun x => (pixel x).covers u v) = if c.covers u v then 1 else 0) :
    c.run s = runSinks ((List.range' a n).map pixel) s := by
  rw [← runSinks_singleton]
  refine runSinks_congr hfb (by simp [hc]) (by simpa using hpixel) fun u v _ _ => ?_
  rw [multiplicity, multiplicity, List.countP_singleton, List.countP_map]
  exact (hcover u v).symm

/-- A horizontal run on the display is its pixels, from left to right (R47). -/
theorem hrun_run_eq_pixels {s : State} {l r y : Nat} (hfb : s.fb.wf = true) (hl : l ≤ r) (hr : r < s.w)
    (hy : y < s.h) :
    (SinkCall.hrun l r y).run s = runSinks ((List.range' l (r + 1 - l)).map fun x : Nat => SinkCall.pixel x y) s := by
  have hw := s.w_le
  have hh := s.h_le
  have hl' := wrap8_natCast_toNat (show l < 256 by omega)
  have hr' := wrap8_natCast_toNat (show r < 256 by omega)
  have hy' := wrap8_natCast_toNat (show y < 256 by omega)
  have hcolumn : ∀ x ∈ List.range' l (r + 1 - l), x < s.w := fun x hx => by
    rw [List.mem_range'_1] at hx
    omega
  refine run_eq_runSinks_pixels hfb (by simp [SinkCall.inDomain, hl', hr', hy', hl, hr, hy])
    (fun x hx => pixel_inDomain (hcolumn x hx) hy) fun u v => ?_
  rw [countP_range'_of_iff (u := u) (Q := y = v) fun x hx =>
    pixel_covers_iff u v (by have := hcolumn x hx; omega) (by omega)]
  simp only [SinkCall.covers, hl', hr', hy', show l + (r + 1 - l) = r + 1 by omega, Nat.lt_succ_iff,
    Bool.and_eq_true, decide_eq_true_eq, beq_iff_eq]

/-- A vertical run on the display is its pixels, from top to bottom (R47). -/
theorem vrun_run_eq_pixels {s : State} {x t b : Nat} (hfb : s.fb.wf = true) (hx : x < s.w) (ht : t ≤ b)
    (hb : b < s.h) :
    (SinkCall.vrun x t b).run s = runSinks ((List.range' t (b + 1 - t)).map fun y : Nat => SinkCall.pixel x y) s := by
  have hw := s.w_le
  have hh := s.h_le
  have hx' := wrap8_natCast_toNat (show x < 256 by omega)
  have ht' := wrap8_natCast_toNat (show t < 256 by omega)
  have hb' := wrap8_natCast_toNat (show b < 256 by omega)
  have hrow : ∀ y ∈ List.range' t (b + 1 - t), y < s.h := fun y hy => by
    rw [List.mem_range'_1] at hy
    omega
  refine run_eq_runSinks_pixels hfb (by simp [SinkCall.inDomain, hx', ht', hb', hx, ht, hb])
    (fun y hy => pixel_inDomain hx (hrow y hy)) fun u v => ?_
  rw [countP_range'_of_iff (u := v) (Q := x = u) fun y hy =>
    (pixel_covers_iff u v (by omega) (by have := hrow y hy; omega)).trans and_comm]
  simp only [SinkCall.covers, hx', ht', hb', show t + (b + 1 - t) = b + 1 by omega, Nat.lt_succ_iff,
    Bool.and_eq_true, decide_eq_true_eq, beq_iff_eq, and_assoc, and_comm]

end Sys2Proof.Machine
end

section
/-! SUPPORT. The font reader: what a byte, a bit, an entry and a lookup answer (R50 to R53). -/

namespace Sys2Proof.Machine

variable {s : State}

theorem State.fontByte_of_read {a : Nat} {b : Byte} (h : s.fm.read a = some b) : s.fontByte a = .ok b := by
  simp [State.fontByte, h]

theorem State.fontByte_of_read_none {a : Nat} (h : s.fm.read a = none) : s.fontByte a = .error .fontRange := by
  simp [State.fontByte, h]

/-- A font byte is read where the table has it, and else raises `FontRange` (R51). -/
theorem State.fontByte_reads (s : State) (a : Nat) :
    Answers (· = .fontRange) (fun _ => s.fm.read a ≠ none) (s.fontByte a) := by
  cases h : s.fm.read a with
  | none => rw [State.fontByte_of_read_none h]; rfl
  | some b => rw [State.fontByte_of_read h]; exact answers_ok (by simp)

theorem sext8_eq_toInt (b : Byte) : sext8 b = b.toInt := by
  rw [sext8, BitVec.toInt_eq_toNat_cond]
  split <;> split <;> omega

/-- The bit that masks bit address `k` in its byte: the most significant one comes first (R53). -/
theorem and_bitmapMask_ne_zero (b : Byte) (k : Nat) : (b &&& (0x80#8 >>> (k % 8)) != 0) = b.getLsbD (7 - k % 8) := by
  have hmask : ∀ r < 8, 0x80#8 >>> r = BitVec.twoPow 8 (7 - r) := by decide
  have hbit : ∀ i < 8, BitVec.twoPow 8 i ≠ 0#8 := by decide
  rw [hmask _ (Nat.mod_lt k (by decide)), BitVec.and_twoPow]
  cases b.getLsbD (7 - k % 8) with
  | false => rfl
  | true => simpa using hbit _ (by omega)

theorem State.bitmapBit_of_read {k : Nat} {b : Byte} (h : s.bm.read (k / 8) = some b) :
    s.bitmapBit k = .ok (b.getLsbD (7 - k % 8)) := by
  rw [State.bitmapBit, show k >>> 3 = k / 8 from Nat.shiftRight_eq_div_pow k 3, h]
  exact congrArg _ (and_bitmapMask_ne_zero b k)

theorem State.bitmapBit_of_read_none {k : Nat} (h : s.bm.read (k / 8) = none) :
    s.bitmapBit k = .error .fontRange := by
  rw [State.bitmapBit, show k >>> 3 = k / 8 from Nat.shiftRight_eq_div_pow k 3, h]

/-- An entry that lies in the table, low byte of the bitmap offset first, the offsets signed (R50). -/
theorem State.glyphEntry_of_reads {e : Nat} {b : Nat → Byte} (h : ∀ k < 7, s.fm.read (e + k) = some (b k)) :
    s.glyphEntry e = .ok ⟨(b 0).toNat + 256 * (b 1).toNat, (b 2).toNat, (b 3).toNat, b 4,
      (b 5).toInt, (b 6).toInt⟩ := by
  have hbyte : ∀ k < 7, s.fontByte (e + k) = .ok (b k) := fun k hk => State.fontByte_of_read (h k hk)
  rw [State.glyphEntry, show s.fontByte e = .ok (b 0) from hbyte 0 (by decide), hbyte 1 (by decide),
    hbyte 2 (by decide), hbyte 3 (by decide), hbyte 4 (by decide), hbyte 5 (by decide), hbyte 6 (by decide),
    ← sext8_eq_toInt, ← sext8_eq_toInt]
  rfl

/-- An entry is answered only where the table has all seven bytes, and else raises `FontRange` (R51). -/
theorem State.glyphEntry_reads (s : State) (e : Nat) :
    Answers (· = .fontRange) (fun _ => ∀ k < 7, s.fm.read (e + k) ≠ none) (s.glyphEntry e) := by
  refine (s.fontByte_reads e).bind fun _ h0 => (s.fontByte_reads _).bind fun _ h1 =>
    (s.fontByte_reads _).bind fun _ h2 => (s.fontByte_reads _).bind fun _ h3 =>
    (s.fontByte_reads _).bind fun _ h4 => (s.fontByte_reads _).bind fun _ h5 =>
    (s.fontByte_reads _).bind fun _ h6 => answers_ok fun k hk => ?_
  interval_cases k
  exacts [h0, h1, h2, h3, h4, h5, h6]

theorem State.glyphEntry_of_read_none {e k : Nat} (hk : k < 7) (h : s.fm.read (e + k) = none) :
    s.glyphEntry e = .error .fontRange := by
  have hentry := s.glyphEntry_reads e
  cases hg : s.glyphEntry e with
  | ok g => exact absurd h (hentry.ok hg k hk)
  | error f => rw [hentry.error hg]

/-- Without a font there is no glyph (R52). -/
theorem State.glyph_of_not_fonten {c : Byte} (h : s.fonten = false) : s.glyph c = .ok none := by
  rw [State.glyph, if_neg (by simp [h])]
  rfl

/-- With a font the header is read first (R52). -/
theorem State.glyph_of_header_none {c : Byte} (h : s.fonten = true)
    (hheader : s.fm.read 0 = none ∨ s.fm.read 1 = none) : s.glyph c = .error .fontRange := by
  rw [State.glyph, if_pos h]
  cases h0 : s.fm.read 0 with
  | none => rw [State.fontByte_of_read_none h0]; rfl
  | some first =>
    rw [State.fontByte_of_read h0, State.fontByte_of_read_none (hheader.resolve_left (by simp [h0]))]
    rfl

/-- The lookup of R52 once the header is read: none outside its range, else the code's entry. -/
theorem State.glyph_of_header {c first last : Byte} (h : s.fonten = true) (h0 : s.fm.read 0 = some first)
    (h1 : s.fm.read 1 = some last) :
    s.glyph c = if c.toNat < first.toNat ∨ last.toNat < c.toNat then .ok none
      else (s.glyphEntry (4 + 7 * (c.toNat - first.toNat))).map some := by
  rw [State.glyph, if_pos h, State.fontByte_of_read h0, State.fontByte_of_read h1]
  rfl

end Sys2Proof.Machine
end

section
/-! PROOFS. The statements of `20_memory.md`: the framebuffer, the draw modes, the sink and the font reader. -/

namespace Sys2Proof.Machine

/-- Settles O29: the byte index of a pixel on the display is `x + (y / 8) * W`, a column and a page. -/
theorem pixelsHaveBitsOfTheirOwn : Obligations.PixelsHaveBitsOfTheirOwn := by
  refine ⟨fun s x y x' y' hx hy hx' hy' => ?_, rfl⟩
  exact ⟨s.pageOf_eq hy, s.pageOf_lt y, s.fbIndex_eq x hy, s.fbIndex_lt y hx,
    fun hbyte hbit => (s.pixel_inj hx hy hx' hy').mp ⟨hbyte, hbit⟩⟩

/-- Settles O32: a run covers each of its pixels once, as its pixels do. -/
theorem runsEqualTheirPixels : Obligations.RunsEqualTheirPixels := fun _ hfb =>
  ⟨fun _ _ _ hl hr hy => hrun_run_eq_pixels hfb hl hr hy, fun _ _ _ hx ht hb => vrun_run_eq_pixels hfb hx ht hb⟩

/-- Settles O33: the draw mode and the number of masks that name a bit decide it, whatever their order. -/
theorem multiplicityDecidesThePixel : Obligations.MultiplicityDecidesThePixel :=
  ⟨fun mode fb i j m n hfb => applyMasks_perm mode (ims := [(i, m), (j, n)]) fb hfb (.swap _ _ _),
    fun _ _ _ hfb h _ _ hu hv => pixelAt_of_runSinks hfb h hu hv,
    fun _ _ _ hfb h => runSinks_perm hfb h⟩

/-- Settles O30: a bit of the mask is covered once, any other not at all. -/
theorem blendActsOnTheMaskOnly : Obligations.BlendActsOnTheMaskOnly := by
  intro old m k hk
  refine ⟨fun hm mode => ?_, fun hm => ?_⟩
  · simp [blend_getLsbD _ _ _ hk, hm]
  · simp [blend_getLsbD _ _ _ hk, hm, blendBit]

/-- Settles O31: the domain of R42 on the arguments reduced `mod 256`. -/
theorem sinkCallsFaultOutsideTheirDomain : Obligations.SinkCallsFaultOutsideTheirDomain := by
  intro s a b c
  refine ⟨SinkCall.run_of_inDomain_iff ?_, SinkCall.run_of_inDomain_iff ?_, SinkCall.run_of_inDomain_iff ?_⟩ <;>
    simp only [SinkCall.inDomain, wrap8_toNat, Bool.and_eq_true, decide_eq_true_eq, and_assoc]

/-- Settles O51: one lemma per answer of the bitmap reader and of the lookup. -/
theorem fontReadsFollowTheTables : Obligations.FontReadsFollowTheTables := by
  intro s c a
  refine ⟨fun b => State.bitmapBit_of_read, State.bitmapBit_of_read_none, State.glyph_of_not_fonten,
    State.glyph_of_header_none, fun first last hf h0 h1 => ?_⟩
  rw [State.glyph_of_header hf h0 h1]
  refine ⟨fun hout => if_pos hout, fun hfirst hlast => ?_⟩
  rw [if_neg (by omega)]
  refine ⟨fun b hb => ?_, fun k hk hnone => ?_⟩
  · rw [State.glyphEntry_of_reads hb]
    rfl
  · rw [State.glyphEntry_of_read_none hk hnone]
    rfl

end Sys2Proof.Machine
end

section
/-! SUPPORT. The decoder answers a command exactly where the command's encoding stands at the front of the bytes
(R65 to R69): `decode_eq_ok_iff`. -/

namespace Sys2Proof

theorem encode_length (i : Instr) : (encode i).length = i.length := by
  cases i with
  | widths cs => exact (Laws.EncodedLength.widths cs).1
  | drawstr cs => exact (Laws.EncodedLength.drawstr cs).1
  | _ => rfl

/-- A command with an encoding is no longer than the longest command (R65). -/
theorem Instr.length_le_of_encodable {i : Instr} (h : i.encodable = true) : i.length ≤ maxCommandBytes := by
  cases i with
  | widths cs | drawstr cs =>
    have hcs : cs.length ≤ 255 := by simpa [Instr.encodable] using h
    simp only [Instr.length, maxCommandBytes]
    omega
  | _ => simp [Instr.length, maxCommandBytes]

/-- The row of an opcode in the opcode map (R68). -/
def Opcode.row (op : Opcode) : OpcodeRow := (opcodeMap.find? (·.op == op)).getD ⟨op, 0, .Z⟩

theorem Opcode.row_of_mem {row : OpcodeRow} (h : row ∈ opcodeMap) : row.op.row = row := by
  revert row
  decide

theorem opcodeRow?_eq_some {b : Byte} {row : OpcodeRow} (h : opcodeRow? b = some row) :
    row.op.row = row ∧ row.code = b :=
  ⟨Opcode.row_of_mem (List.mem_of_find?_eq_some h), by simpa using List.find?_some h⟩

/-- The byte ranges between the opcodes of the map (R68, R69). -/
theorem opcodeRow?_eq_none {b : Byte}
    (h : b.toNat ≤ 0x0F ∨ (0x14 ≤ b.toNat ∧ b.toNat ≤ 0x1F) ∨ (0x24 ≤ b.toNat ∧ b.toNat ≤ 0x2F) ∨
      (0x34 ≤ b.toNat ∧ b.toNat ≤ 0x3F) ∨ (0x45 ≤ b.toNat ∧ b.toNat ≤ 0x4F) ∨ 0x54 ≤ b.toNat) :
    opcodeRow? b = none := by
  revert b
  decide

theorem ofNat_length_take {n : Byte} {cs : List Byte} (h : n.toNat ≤ cs.length) :
    BitVec.ofNat 8 (cs.take n.toNat).length = n := by
  rw [List.length_take_of_le h]
  simp

/-- What an opcode and the bytes after it make is a command whose encoding they begin with (R66, R67). -/
theorem encode_prefix_of_assembleOperands {op : Opcode} {rest : List Byte} {i : Instr}
    (h : assembleOperands op rest = some i) : i.encodable = true ∧ encode i <+: op.row.code :: rest := by
  unfold assembleOperands at h
  split at h
  -- the strings, whose count byte is the length of what is taken
  case h_20 n cs | h_21 n cs =>
    split at h
    · rename_i hn
      cases h
      have hlt := n.isLt
      refine ⟨?_, cs.drop n.toNat, ?_⟩
      · simp only [Instr.encodable, decide_eq_true_eq, List.length_take]
        omega
      · rw [encode, ofNat_length_take hn, List.cons_append, List.cons_append, List.take_append_drop]
        rfl
    · cases h
  case h_22 => cases h
  all_goals
    cases h
    exact ⟨rfl, _, rfl⟩

theorem decode_encode_append {i : Instr} (h : i.encodable = true) (rest : List Byte) :
    decode (encode i ++ rest) = .ok i := by
  cases i with
  | widths cs | drawstr cs =>
    have hcs : cs.length ≤ 255 := by simpa [Instr.encodable] using h
    have hcount : cs.length % 256 = cs.length := by omega
    simp [encode, decode, opcodeRow?, opcodeMap, assembleOperands, hcount]
  | _ => rfl

/-- The decoder answers `i` exactly for the bytes that begin with the encoding of `i` (R65 to R69). -/
theorem decode_eq_ok_iff {bytes : List Byte} {i : Instr} :
    decode bytes = .ok i ↔ i.encodable = true ∧ encode i <+: bytes := by
  constructor
  · intro h
    unfold decode at h
    split at h
    · cases h
    · split at h
      · cases h
      · rename_i row hrow
        obtain ⟨hop, rfl⟩ := opcodeRow?_eq_some hrow
        split at h
        · cases h
        · rename_i hi
          cases h
          simpa only [hop] using encode_prefix_of_assembleOperands hi
  · rintro ⟨hi, rest, rfl⟩
    exact decode_encode_append hi rest

/-! ## Enough bytes make a command (R69) -/

theorem decode_cons_of_isSome {b : Byte} {rest : List Byte} {row : OpcodeRow} (hrow : opcodeRow? b = some row)
    (h : (assembleOperands row.op rest).isSome = true) : ∃ i, decode (b :: rest) = .ok i := by
  obtain ⟨i, hi⟩ := Option.isSome_iff_exists.mp h
  exact ⟨i, by simp [decode, hrow, hi]⟩

/-- The operand bytes of a format without a count (R66). -/
theorem assembleOperands_isSome_of_fixed {op : Opcode} {rest : List Byte} (hS : op.row.format ≠ .S)
    (h : formatOperands op.row.format ≤ rest.length) : (assembleOperands op rest).isSome = true := by
  cases op with
  | clear | invalidate | validate | flush => rfl
  | setmode | setfont | widthc | drawchar =>
    match rest, h with
    | _ :: _, _ => rfl
  | moveto | pixel | lineto =>
    match rest, h with
    | _ :: _ :: _, _ => rfl
  | markdirty | framerect | paintrect | frameoval | paintoval | corner =>
    match rest, h with
    | _ :: _ :: _ :: _ :: _, _ => rfl
  | framerrect | paintrrect =>
    match rest, h with
    | _ :: _ :: _ :: _ :: _ :: _, _ => rfl
  | widths | drawstr => exact absurd rfl hS

/-- The counted bytes of format S (R66). -/
theorem assembleOperands_isSome_of_counted {op : Opcode} {n : Byte} {cs : List Byte} (hS : op.row.format = .S)
    (h : n.toNat ≤ cs.length) : (assembleOperands op (n :: cs)).isSome = true := by
  cases op with
  | widths | drawstr => simp [assembleOperands, h]
  | _ => exact absurd hS (by decide)

end Sys2Proof
end

section
/-! SUPPORT. Fetch and step (R69, R72): a whole command is at `CP` exactly where the fetched bytes decode, and a step
runs it or takes `IllegalCommand`. -/

namespace Sys2Proof.Machine

/-- Bytes of a command's encoding that stand in the fetch window are bytes of the stream. -/
theorem State.read_of_encode_prefix {s : State} {i : Instr} (h : encode i <+: s.fetchBytes) {k : Nat}
    (hk : k < i.length) : s.cs.read (s.cp.toNat + k) = (encode i)[k]? := by
  have hlen := h.length_le
  rw [encode_length, State.fetchBytes_length] at hlen
  rw [← State.fetchBytes_getElem? s k (by omega), List.prefix_iff_getElem?.mp h k (by rwa [encode_length]),
    List.getElem?_eq_getElem]

/-- An encoding that stands in the stream at `CP` stands in the fetch window. -/
theorem State.encode_prefix_of_read {s : State} {i : Instr} (hi : i.encodable = true)
    (h : ∀ k, k < i.length → s.cs.read (s.cp.toNat + k) = (encode i)[k]?) : encode i <+: s.fetchBytes := by
  refine List.prefix_iff_getElem?.mpr fun k hk => ?_
  have hki : k < i.length := encode_length i ▸ hk
  have hmax : i.length ≤ maxCommandBytes := Instr.length_le_of_encodable hi
  rw [State.fetchBytes_getElem? s k (by omega), h k hki, List.getElem?_eq_getElem hk]

/-- The opcode, and the count byte of format S, give the length of the command fetched (R66, R72). -/
theorem State.commandLength?_of_decode {s : State} {i : Instr} (h : decode s.fetchBytes = .ok i) :
    s.commandLength? = some i.length := by
  obtain ⟨hi, hpre⟩ := decode_eq_ok_iff.mp h
  have hop : s.cs.read s.cp.toNat = (encode i)[0]? := State.read_of_encode_prefix hpre i.length_pos
  cases i with
  | widths cs | drawstr cs =>
    have hcs : cs.length ≤ 255 := by simpa [Instr.encodable] using hi
    have hmod : cs.length % 256 = cs.length := by omega
    have hcount := State.read_of_encode_prefix hpre (k := 1) (by simp [Instr.length]; omega)
    simp [State.commandLength?, hop, hcount, encode, opcodeRow?, opcodeMap, Instr.length, hmod]
  | _ =>
    rw [State.commandLength?, hop]
    rfl

/-- What `len(op)` reads: the opcode's row and, for format S, the count byte (R66, R72). -/
theorem State.commandLength?_eq_some {s : State} {n : Nat} (h : s.commandLength? = some n) :
    ∃ b row, s.cs.read s.cp.toNat = some b ∧ opcodeRow? b = some row ∧
      ((row.format = .S ∧ ∃ c, s.cs.read (s.cp.toNat + 1) = some c ∧ 2 + c.toNat = n) ∨
        (row.format ≠ .S ∧ 1 + formatOperands row.format = n)) := by
  unfold State.commandLength? at h
  split at h
  · cases h
  rename_i b hb
  split at h
  · cases h
  rename_i row hrow
  refine ⟨b, row, hb, hrow, ?_⟩
  split at h
  · rename_i hS
    exact .inl ⟨hS, Option.map_eq_some_iff.mp h⟩
  · rename_i hS
    exact .inr ⟨hS, Option.some.inj h⟩

/-- The bytes of a whole command decode (R69). -/
theorem State.decode_of_commandPresent {s : State} (h : s.commandPresent = true) :
    ∃ i, decode s.fetchBytes = .ok i := by
  unfold State.commandPresent at h
  split at h
  case h_2 => cases h
  rename_i n hn
  have hlen : s.cp.toNat + n ≤ s.cs.size := of_decide_eq_true h
  obtain ⟨b, row, hb, hrow, hformat⟩ := State.commandLength?_eq_some hn
  obtain ⟨hop, -⟩ := opcodeRow?_eq_some hrow
  have hwindow := s.fetchBytes_length
  have hbyte : s.fetchBytes[0]? = some b := (s.fetchBytes_getElem? 0 (by decide)).trans hb
  have hnext := s.fetchBytes_getElem? 1 (by decide)
  cases hbytes : s.fetchBytes with
  | nil => simp [hbytes] at hbyte
  | cons b' rest =>
    obtain rfl : b' = b := by simpa [hbytes] using hbyte
    refine decode_cons_of_isSome hrow ?_
    rw [hbytes, List.length_cons, maxCommandBytes] at hwindow
    obtain ⟨hS, c, hc, rfl⟩ | ⟨hS, rfl⟩ := hformat
    · have hcount : rest[0]? = some c := by simpa [hbytes, hc] using hnext
      cases rest with
      | nil => cases hcount
      | cons c' cs =>
        obtain rfl : c' = c := Option.some.inj hcount
        have hlt := c'.isLt
        rw [List.length_cons] at hwindow
        exact assembleOperands_isSome_of_counted (by rwa [hop]) (by omega)
    · have hoperands : formatOperands row.format ≤ 5 := by cases row.format <;> decide
      exact assembleOperands_isSome_of_fixed (by rwa [hop]) (by rw [hop]; omega)

/-- A whole command is at `CP` exactly where the fetched bytes decode (R69). -/
theorem State.commandPresent_iff (s : State) : s.commandPresent = true ↔ ∃ i, decode s.fetchBytes = .ok i := by
  refine ⟨State.decode_of_commandPresent, fun ⟨i, hi⟩ => ?_⟩
  have hlen := length_le_of_decode hi
  have hpos := i.length_pos
  rw [State.fetchBytes_length] at hlen
  simp only [State.commandPresent, State.commandLength?_of_decode hi, decide_eq_true_eq]
  omega

section
variable {s : State} (hf : s.fault = false) (ha : s.admitted = true)
include hf ha

/-- An unfaulted engine at the end of its stream has no step (R73). -/
theorem step_of_final (hcp : s.cp.toNat = s.cs.size) : step s = .refused .runOver := by
  simp [step, hf, ha, State.isFinal, hcp]

/-- An unfaulted engine inside its stream runs the command its bytes decode to (R72). -/
theorem step_of_decode {i : Instr} (hcp : s.cp.toNat < s.cs.size) (h : decode s.fetchBytes = .ok i) :
    step s = exec i s := by
  simp [step, hf, ha, State.isFinal, hcp.ne, hcp.not_gt, h]

/-- Bytes that are no command raise `IllegalCommand`, a precise fault (R69, R134). -/
theorem step_of_decode_error {e : DecodeError} (hcp : s.cp.toNat < s.cs.size) (h : decode s.fetchBytes = .error e) :
    step s = .next (s.setFault .illegalCommand) := by
  simp [step, hf, ha, State.isFinal, hcp.ne, hcp.not_gt, h, State.takeFault_precise _ .illegalCommand rfl]

/-- Where no whole command is at `CP` the step raises `IllegalCommand` (R69). -/
theorem step_of_not_commandPresent (hcp : s.cp.toNat < s.cs.size) (h : s.commandPresent = false) :
    step s = .next (s.setFault .illegalCommand) := by
  cases hd : decode s.fetchBytes with
  | ok i => exact absurd (s.commandPresent_iff.mpr ⟨i, hd⟩) (by simp [h])
  | error e => exact step_of_decode_error hf ha hcp hd

end

theorem State.commandPresent_of_opcodeRow?_none {s : State} {b : Byte} (hb : s.cs.read s.cp.toNat = some b)
    (h : opcodeRow? b = none) : s.commandPresent = false := by
  simp [State.commandPresent, State.commandLength?, hb, h]

end Sys2Proof.Machine
end

section
/-! SUPPORT. Reserved operands (R70), and which faults a command with legal operands raises. -/

namespace Sys2Proof.Machine

theorem modeOperand_of_reserved {m : Byte} (h : 3 ≤ m.toNat) : modeOperand m = none := by
  revert m
  decide

theorem fontOperand_of_reserved {en : Byte} (h : 2 ≤ en.toNat) : fontOperand en = none := by
  revert en
  decide

theorem cornerMaskLegal_of_reserved {m : Byte} (h : 32 ≤ m.toNat) : cornerMaskLegal m = false := by
  revert m
  decide

/-- Only a reserved operand raises `IllegalOperand`. -/
theorem MayRaise.imprecise_of_legalOperands {i : Instr} {k : FaultCode} (h : MayRaise i k)
    (hi : i.legalOperands = true) : Imprecise k :=
  h.resolve_right fun ⟨_, hillegal⟩ => by simp [hi] at hillegal

/-- The imprecise faults are `SinkRange` and `FontRange` (R132, R134). -/
theorem Imprecise.code {k : FaultCode} (h : Imprecise k) : k.code = 3 ∨ k.code = 4 := by
  cases k with
  | sinkRange => exact .inl rfl
  | fontRange => exact .inr rfl
  | illegalCommand | illegalOperand => cases h

end Sys2Proof.Machine
end

section
/-! PROOFS. The statements of `30_encoding.md`: decoder and encoder, fetch, illegal commands and reserved operands. -/

namespace Sys2Proof.Machine

/-- Settles O1: the bytes begin with the encoding. -/
theorem decodeOfEncodeIsIdentity : Obligations.DecodeOfEncodeIsIdentity :=
  fun _ rest hi => decode_eq_ok_iff.mpr ⟨hi, List.prefix_append _ rest⟩

/-- Settles O2: the bytes begin with the encoding, whose length is the command's. -/
theorem encodeOfDecodeIsTheBytesRead : Obligations.EncodeOfDecodeIsTheBytesRead := by
  intro bytes i h
  obtain ⟨hi, hpre⟩ := decode_eq_ok_iff.mp h
  exact ⟨hi, length_le_of_decode h, encode_length i ▸ List.prefix_iff_eq_take.mp hpre⟩

/-- Settles O4: the bytes decode exactly where a whole command is at `CP`, and none is where the opcode is illegal. -/
theorem illegalCommandIsTakenPrecisely : Obligations.IllegalCommandIsTakenPrecisely := by
  intro s hf ha hcp
  have habsent := step_of_not_commandPresent hf ha hcp
  refine ⟨fun b hb hrange => ?_, habsent, fun hpresent => ?_⟩
  · exact habsent (State.commandPresent_of_opcodeRow?_none hb (opcodeRow?_eq_none hrange))
  · obtain ⟨i, hi⟩ := s.commandPresent_iff.mp hpresent
    exact ⟨i, hi, State.commandLength?_of_decode hi, step_of_decode hf ha hcp hi⟩

/-- Settles O6: a step inside the stream runs a command, which answers a next state, or takes `IllegalCommand`. -/
theorem stepIsDefinedExactlyBeforeTheEnd : Obligations.StepIsDefinedExactlyBeforeTheEnd := by
  intro s
  refine ⟨fun hf => if_pos hf, step_of_final, fun hf ha hcp => ?_⟩
  cases hd : decode s.fetchBytes with
  | error e => exact ⟨_, step_of_decode_error hf ha hcp hd⟩
  | ok i =>
    rw [step_of_decode hf ha hcp hd]
    obtain ⟨u, -, he⟩ | ⟨k, -, he⟩ := exec_cases i s <;> exact ⟨_, he⟩

/-- Settles O15: a reserved operand is looked at first; a command with legal operands completes, with `FAULT` kept, or
raises an imprecise fault. -/
theorem reservedOperandsRaiseIllegalOperand : Obligations.ReservedOperandsRaiseIllegalOperand := by
  intro s
  refine ⟨fun m hm => ?_, fun en hen => ?_, fun cx cy r m hm => ?_, fun i t hi h hf ht => ?_⟩
  · rw [exec, execSetmode, modeOperand_of_reserved hm]
    rfl
  · rw [exec, execSetfont, fontOperand_of_reserved hen]
    rfl
  · rw [exec, execCorner, cornerEffect, cornerMaskLegal_of_reserved hm]
    rfl
  · obtain ⟨u, hu, he⟩ | ⟨k, hk, he⟩ := exec_cases i s
    · obtain rfl : u.advance i.length = t := by simpa [he] using h
      obtain ⟨-, hfault, -⟩ := hu.keeps
      simp [hfault, hf] at ht
    · obtain rfl : s.takeFault k = t := by simpa [he] using h
      rw [State.takeFault_fcode]
      exact Imprecise.code (hk.imprecise_of_legalOperands hi)

/-- Settles O3: the decoder run on each word. -/
theorem specWordsDecode : Obligations.SpecWordsDecode := ⟨rfl, rfl, rfl, rfl, rfl, rfl⟩

/-- Settles O5: the encoding at `CP` stands in the fetch window, and the bytes there decode to its command. -/
theorem stepRunsTheDecodedCommand : Obligations.StepRunsTheDecodedCommand :=
  fun _ _ hf ha hcp =>
    ⟨step_of_decode hf ha hcp, fun hi h => decode_eq_ok_iff.mpr ⟨hi, State.encode_prefix_of_read hi h⟩⟩

end Sys2Proof.Machine
end

section
/-! SUPPORT. Boxes of the tracker (R77 to R79): containing a box, and the box that bounds a list of boxes, which is what
`MarkDirty` forms as long as every box is plain. -/

namespace Sys2Proof.Machine

/-- The box `c` contains the box `b` (R78). -/
abbrev Contains (c b : TrackedBox) : Prop := containsBox c.1 c.2.1 c.2.2.1 c.2.2.2 b

/-- Pixel `(u, v)` lies in the box `b` (R17). -/
abbrev BoxHolds (b : TrackedBox) (u v : Nat) : Prop :=
  inBox b.1.toNat b.2.1.toNat b.2.2.1.toNat b.2.2.2.toNat u v = true

theorem inBox_iff {x y w h u v : Nat} : inBox x y w h u v = true ↔ (x ≤ u ∧ u < x + w) ∧ y ≤ v ∧ v < y + h := by
  simp [inBox, and_assoc]

theorem Contains.refl (b : TrackedBox) : Contains b b := ⟨le_rfl, le_rfl, le_rfl, le_rfl⟩

theorem Contains.trans {a b c : TrackedBox} (hab : Contains a b) (hbc : Contains b c) : Contains a c := by
  obtain ⟨hl, ht, hr, hd⟩ := hab
  obtain ⟨hl', ht', hr', hd'⟩ := hbc
  exact ⟨hl.trans hl', ht.trans ht', hr'.trans hr, hd'.trans hd⟩

/-- Boxes that contain each other have the same edges. -/
theorem Contains.antisymm {a b : TrackedBox} (hab : Contains a b) (hba : Contains b a) : a = b := by
  obtain ⟨hl, ht, hr, hd⟩ := hab
  obtain ⟨hl', ht', hr', hd'⟩ := hba
  refine Prod.ext ?_ (Prod.ext ?_ (Prod.ext ?_ ?_)) <;> apply BitVec.eq_of_toNat_eq <;> omega

theorem Contains.holds {c b : TrackedBox} (h : Contains c b) {u v : Nat} (hb : BoxHolds b u v) : BoxHolds c u v := by
  obtain ⟨hl, ht, hr, hd⟩ := h
  rw [BoxHolds, inBox_iff] at hb ⊢
  omega

theorem plainTrackedBox_iff (b : TrackedBox) :
    plainTrackedBox b = true ↔
      ¬(b.2.2.1 = 0 ∨ b.2.2.2 = 0) ∧ b.1.toNat + b.2.2.1.toNat ≤ 255 ∧ b.2.1.toNat + b.2.2.2.toNat ≤ 255 := by
  simp [plainTrackedBox, plainBox, and_assoc]

theorem nonempty_iff (w h : Byte) : ¬(w = 0 ∨ h = 0) ↔ 0 < w.toNat ∧ 0 < h.toNat := by
  rw [not_or, Nat.pos_iff_ne_zero, Nat.pos_iff_ne_zero]
  exact and_congr (not_congr BitVec.toNat_inj.symm) (not_congr BitVec.toNat_inj.symm)

/-- An empty box holds no pixel. -/
theorem BoxHolds.nonempty {b : TrackedBox} {u v : Nat} (h : BoxHolds b u v) : ¬(b.2.2.1 = 0 ∨ b.2.2.2 = 0) := by
  rw [BoxHolds, inBox_iff] at h
  rw [nonempty_iff]
  omega

theorem State.dirtyEmpty_iff (s : State) : s.dirtyEmpty = true ↔ s.dw = 0 ∨ s.dh = 0 := by
  simp [State.dirtyEmpty]

/-- The premise of R78: the tracked rectangle is empty, or it is a non-empty plain box. -/
theorem State.dirtyPlain_iff (s : State) :
    s.dirtyPlain = true ↔ s.dirtyEmpty = true ∨ plainTrackedBox s.dirty = true := by
  rw [plainTrackedBox_iff, State.dirtyPlain, Bool.or_eq_true, plainBox, Bool.and_eq_true, decide_eq_true_eq,
    decide_eq_true_eq, State.dirtyEmpty_iff]
  simp only [State.dirty]
  tauto

theorem State.plain_of_dirtyPlain {s : State} (hs : s.dirtyPlain = true) (hne : s.dirtyEmpty = false) :
    plainTrackedBox s.dirty = true :=
  (s.dirtyPlain_iff.mp hs).resolve_left (by simp [hne])

/-! ## Marking one box -/

/-- `MarkDirty` of a box. -/
abbrev State.mark (s : State) (b : TrackedBox) : State := s.markBox b.1 b.2.1 b.2.2.1 b.2.2.2

/-- An empty rectangle becomes the box marked (R77). -/
theorem State.mark_dirty_of_empty {s : State} {b : TrackedBox} (hs : s.dirtyEmpty = true)
    (hb : plainTrackedBox b = true) : (s.mark b).dirty = b := by
  rw [State.mark, s.markBox_adopt _ _ _ _ ((plainTrackedBox_iff b).mp hb).1 (s.dirtyEmpty_iff.mp hs)]
  rfl

/-- On one axis: the size of the union formed on far edges that wrap `mod 256` (R77). -/
theorem wrapped_union_size (x w l v : Byte) : (maxByte (x + w) (l + v) - minByte x l).toNat =
    (256 + max ((x.toNat + w.toNat) % 256) ((l.toNat + v.toNat) % 256) - min x.toNat l.toNat) % 256 := by
  simp only [BitVec.toNat_sub, toNat_maxByte, toNat_minByte, BitVec.toNat_add]
  omega

/-- On one axis: the far edges of two plain boxes do not wrap, and neither does their union (R78). -/
theorem union_far_edge {x w l v : Byte} (hx : x.toNat + w.toNat ≤ 255) (hl : l.toNat + v.toNat ≤ 255) :
    (minByte x l).toNat + (maxByte (x + w) (l + v) - minByte x l).toNat =
      max (x.toNat + w.toNat) (l.toNat + v.toNat) := by
  rw [wrapped_union_size, toNat_minByte]
  omega

/-- Uniting a plain box into a plain rectangle: the edges of R77 without wrap (R78). -/
theorem State.mark_edges {s : State} {b : TrackedBox} (hs : plainTrackedBox s.dirty = true)
    (hb : plainTrackedBox b = true) :
    (s.mark b).dx.toNat = min s.dx.toNat b.1.toNat ∧ (s.mark b).dy.toNat = min s.dy.toNat b.2.1.toNat ∧
    (s.mark b).dx.toNat + (s.mark b).dw.toNat = max (s.dx.toNat + s.dw.toNat) (b.1.toNat + b.2.2.1.toNat) ∧
    (s.mark b).dy.toNat + (s.mark b).dh.toNat = max (s.dy.toNat + s.dh.toNat) (b.2.1.toNat + b.2.2.2.toNat) := by
  obtain ⟨hse, hsx, hsy⟩ := (plainTrackedBox_iff _).mp hs
  obtain ⟨hbe, hbx, hby⟩ := (plainTrackedBox_iff _).mp hb
  rw [State.mark, s.markBox_grow _ _ _ _ hbe hse]
  exact ⟨toNat_minByte .., toNat_minByte .., union_far_edge hsx hbx, union_far_edge hsy hby⟩

/-! ## Bounding boxes -/

/-- `c` is plain, contains every box of `bs`, and is the smallest box that does (R78, R79 (c)). -/
structure Bounds (c : TrackedBox) (bs : List TrackedBox) : Prop where
  plain : plainTrackedBox c = true
  contains : ∀ b ∈ bs, Contains c b
  smallest : ∀ d : TrackedBox, (∀ b ∈ bs, Contains d b) → Contains d c

theorem Bounds.singleton {b : TrackedBox} (hb : plainTrackedBox b = true) : Bounds b [b] :=
  ⟨hb, by simp [Contains.refl], fun d hd => hd b (by simp)⟩

/-- The bounding box is one, whatever the order of the boxes. -/
theorem Bounds.unique_of_perm {c c' : TrackedBox} {bs bs' : List TrackedBox} (h : Bounds c bs) (h' : Bounds c' bs')
    (hp : bs.Perm bs') : c = c' :=
  (h'.smallest c fun b hb => h.contains b (hp.mem_iff.mpr hb)).antisymm
    (h.smallest c' fun b hb => h'.contains b (hp.mem_iff.mp hb))

/-- A box that bounds the bounding box of some boxes together with others bounds them all. -/
theorem Bounds.trans {c c' b : TrackedBox} {bs : List TrackedBox} (h : Bounds c [c', b])
    {d : TrackedBox} (h' : Bounds d (c :: bs)) : Bounds d (c' :: b :: bs) := by
  have hdc : Contains d c := h'.contains c (by simp)
  refine ⟨h'.plain, ?_, fun e he => h'.smallest e ?_⟩
  · simp only [List.forall_mem_cons]
    exact ⟨hdc.trans (h.contains c' (by simp)), hdc.trans (h.contains b (by simp)),
      fun x hx => h'.contains x (by simp [hx])⟩
  · simp only [List.forall_mem_cons] at he ⊢
    obtain ⟨hc', hb, hbs⟩ := he
    exact ⟨h.smallest e (by simp [hc', hb]), hbs⟩

/-- Uniting a plain box into a plain rectangle forms their bounding box (R78). -/
theorem State.mark_bounds {s : State} {b : TrackedBox} (hs : plainTrackedBox s.dirty = true)
    (hb : plainTrackedBox b = true) : Bounds (s.mark b).dirty [s.dirty, b] := by
  obtain ⟨hx, hy, hr, hd⟩ := State.mark_edges hs hb
  obtain ⟨hse, hsx, hsy⟩ := (plainTrackedBox_iff _).mp hs
  obtain ⟨-, hbx, hby⟩ := (plainTrackedBox_iff _).mp hb
  rw [nonempty_iff] at hse
  simp only [State.dirty] at hse hsx hsy ⊢
  refine ⟨(plainTrackedBox_iff _).mpr ⟨(nonempty_iff _ _).mpr ?_, ?_, ?_⟩, ?_, ?_⟩ <;>
    simp only [List.forall_mem_cons]
  · omega
  · omega
  · omega
  · refine ⟨?_, ?_, fun b hb => nomatch hb⟩ <;> simp only [Contains, containsBox] <;> omega
  · rintro d ⟨h1, h2, -⟩
    simp only [containsBox] at h1 h2 ⊢
    omega

/-! ## Marking boxes one after the other -/

/-- Marking writes the rectangle alone: the state is what it was with the new rectangle (R76). -/
theorem State.markBoxes_eq_setDirty (s : State) (bs : List TrackedBox) :
    s.markBoxes bs =
      s.setDirty (s.markBoxes bs).dx (s.markBoxes bs).dy (s.markBoxes bs).dw (s.markBoxes bs).dh := by
  induction bs generalizing s with
  | nil => rfl
  | cons b rest ih =>
    obtain ⟨x, y, w, h, e⟩ := s.markBox_eq b.1 b.2.1 b.2.2.1 b.2.2.2
    simp only [State.markBoxes, e]
    exact ih (s.setDirty x y w h)

theorem State.markBoxes_append (s : State) (bs bs' : List TrackedBox) :
    s.markBoxes (bs ++ bs') = (s.markBoxes bs).markBoxes bs' := by
  induction bs generalizing s with
  | nil => rfl
  | cons b rest ih => exact ih _

/-- States that differ in the rectangle alone are equal when their rectangles are. -/
theorem State.markBoxes_eq_of_dirty {s : State} {bs bs' : List TrackedBox}
    (h : (s.markBoxes bs).dirty = (s.markBoxes bs').dirty) : s.markBoxes bs = s.markBoxes bs' := by
  simp only [State.dirty, Prod.mk.injEq] at h
  obtain ⟨hx, hy, hw, hh⟩ := h
  rw [s.markBoxes_eq_setDirty bs, s.markBoxes_eq_setDirty bs', hx, hy, hw, hh]

/-- From a plain rectangle the tracker ends in the bounding box of it and the boxes (R79). -/
theorem State.markBoxes_bounds {s : State} {bs : List TrackedBox} (hs : plainTrackedBox s.dirty = true)
    (hbs : ∀ b ∈ bs, plainTrackedBox b = true) : Bounds (s.markBoxes bs).dirty (s.dirty :: bs) := by
  induction bs generalizing s with
  | nil => exact .singleton hs
  | cons b rest ih =>
    simp only [List.forall_mem_cons] at hbs
    obtain ⟨hb, hrest⟩ := hbs
    have hmark := State.mark_bounds hs hb
    exact hmark.trans (ih hmark.plain hrest)

/-- From an empty rectangle the tracker ends in the bounding box of the boxes (R79 (c)). -/
theorem State.markBoxes_bounds_of_empty {s : State} {bs : List TrackedBox} (hs : s.dirtyEmpty = true) (hne : bs ≠ [])
    (hbs : ∀ b ∈ bs, plainTrackedBox b = true) : Bounds (s.markBoxes bs).dirty bs := by
  cases bs with
  | nil => exact absurd rfl hne
  | cons b rest =>
    simp only [List.forall_mem_cons] at hbs
    obtain ⟨hb, hrest⟩ := hbs
    have hmark : (s.mark b).dirty = b := State.mark_dirty_of_empty hs hb
    have hbounds := State.markBoxes_bounds (s := s.mark b) (hmark.symm ▸ hb) hrest
    rwa [hmark] at hbounds

/-- A box the tracker takes without wrap: empty, or plain (R78). -/
abbrev EmptyOrPlain (b : TrackedBox) : Prop := b.2.2.1 = 0 ∨ b.2.2.2 = 0 ∨ plainTrackedBox b = true

/-- Marking an empty or plain box keeps the rectangle plain and every pixel of it, and takes in the box's (R78, R79). -/
theorem State.mark_tracks {s : State} {b : TrackedBox} (hs : s.dirtyPlain = true) (hb : EmptyOrPlain b) :
    (s.mark b).dirtyPlain = true ∧
    ∀ u v, BoxHolds s.dirty u v ∨ BoxHolds b u v → BoxHolds (s.mark b).dirty u v := by
  rw [EmptyOrPlain, ← or_assoc] at hb
  rcases hb with hb | hb
  · rw [State.mark, s.markBox_zero _ _ _ _ hb]
    exact ⟨hs, fun u v h => h.resolve_right fun h' => h'.nonempty hb⟩
  · rw [State.dirtyPlain_iff]
    rcases s.dirtyPlain_iff.mp hs with he | hp
    · rw [State.mark_dirty_of_empty he hb]
      exact ⟨.inr hb, fun u v h => h.resolve_left fun h' => h'.nonempty (s.dirtyEmpty_iff.mp he)⟩
    · have hbounds := State.mark_bounds hp hb
      exact ⟨.inr hbounds.plain, fun u v h => h.elim (hbounds.contains s.dirty (by simp)).holds
        (hbounds.contains b (by simp)).holds⟩

theorem State.markBoxes_tracks {s : State} {bs : List TrackedBox} (hs : s.dirtyPlain = true)
    (hbs : ∀ b ∈ bs, EmptyOrPlain b) :
    (s.markBoxes bs).dirtyPlain = true ∧
    ∀ u v, BoxHolds s.dirty u v ∨ (∃ b ∈ bs, BoxHolds b u v) → BoxHolds (s.markBoxes bs).dirty u v := by
  induction bs generalizing s with
  | nil => exact ⟨hs, fun u v h => h.resolve_right fun ⟨b, hb, _⟩ => nomatch hb⟩
  | cons b rest ih =>
    simp only [List.forall_mem_cons] at hbs
    obtain ⟨hplain, hmark⟩ := State.mark_tracks hs hbs.1
    obtain ⟨hplain', hrest⟩ := ih hplain hbs.2
    refine ⟨hplain', fun u v h => hrest u v ?_⟩
    simp only [List.exists_mem_cons_iff, ← or_assoc] at h
    exact h.imp_left (hmark u v)

end Sys2Proof.Machine
end

section
/-! SUPPORT. FLUSH (R84, R85): what it does with an empty rectangle, and with the host's answer. -/

namespace Sys2Proof.Machine

theorem flushEffect_of_empty {s : State} (h : s.dirtyEmpty = true) : flushEffect s = s.setRes 1 := if_pos h

theorem flushEffect_of_accepted {s : State} (h : s.dirtyEmpty = false) (ha : s.transmit.1 = true) :
    flushEffect s = (s.transmit.2.setDirty 0 0 0 0).setRes 1 := by
  simp [flushEffect, h, ha]

theorem flushEffect_of_refused {s : State} (h : s.dirtyEmpty = false) (ha : s.transmit.1 = false) :
    flushEffect s = s.transmit.2.setRes 0 := by
  simp [flushEffect, h, ha]

/-- The host is shown the rectangle and `FB`, after what it was shown before (R85). -/
theorem State.transmit_transmissions (s : State) : s.transmit.2.transmissions =
    s.transmissions ++ [⟨s.dx, s.dy, s.dw, s.dh, s.fb, s.transmit.1⟩] := by
  unfold State.transmit State.takeAnswer
  cases s.answers <;> rfl

/-- The next answer handed over is the host's (R85, D35). -/
theorem State.transmit_of_answers {s : State} {ok : Bool} {more : List Bool} (h : s.answers = ok :: more) :
    s.transmit = (ok, { s with
      answers := more, transmissions := s.transmissions ++ [⟨s.dx, s.dy, s.dw, s.dh, s.fb, ok⟩] }) := by
  simp [State.transmit, State.takeAnswer, h]

/-- Without an answer handed over it is free (R85, log entry 5). -/
theorem State.transmit_of_no_answers {s : State} (h : s.answers = []) :
    ∃ ok, s.transmit = (ok, { s with
      draws := s.draws + 1, transmissions := s.transmissions ++ [⟨s.dx, s.dy, s.dw, s.dh, s.fb, ok⟩] }) :=
  ⟨Config.freeAnswer s.draws, by simp [State.transmit, State.takeAnswer, h]⟩

/-- FLUSH reports success exactly where it leaves the rectangle empty; a failure leaves what it showed the host as it
was (R84). -/
theorem flushEffect_cases (s : State) :
    ((flushEffect s).res = 1 ∧ (flushEffect s).dirtyEmpty = true) ∨
    ((flushEffect s).res = 0 ∧ s.dirtyEmpty = false ∧ (flushEffect s).dirty = s.dirty ∧ (flushEffect s).fb = s.fb) := by
  cases he : s.dirtyEmpty with
  | true =>
    rw [flushEffect_of_empty he]
    exact .inl ⟨rfl, he⟩
  | false =>
    cases ha : s.transmit.1 with
    | true =>
      rw [flushEffect_of_accepted he ha]
      exact .inl ⟨rfl, rfl⟩
    | false =>
      rw [flushEffect_of_refused he ha]
      exact .inr ⟨rfl, rfl, by simp [State.dirty], by simp⟩

theorem flushEffect_transmissions {s : State} (h : s.dirtyEmpty = false) :
    ∃ ok, (flushEffect s).transmissions = s.transmissions ++ [⟨s.dx, s.dy, s.dw, s.dh, s.fb, ok⟩] := by
  refine ⟨s.transmit.1, ?_⟩
  rw [← s.transmit_transmissions]
  cases ha : s.transmit.1 with
  | true => rw [flushEffect_of_accepted h ha]; rfl
  | false => rw [flushEffect_of_refused h ha]; rfl

end Sys2Proof.Machine
end

section
/-! PROOFS. The statements of `40_dirty.md` about the tracker's commands and FLUSH. -/

namespace Sys2Proof.Machine

theorem State.markDirty_int (s : State) (l t w h : Byte) :
    s.markDirty l.int t.int w.int h.int = s.markBox l t w h := by
  simp [State.markDirty]

/-- Settles O23: the three cases of `MarkDirty`; one axis at a time in the last. -/
theorem markdirtyFormsTheWrappedUnion : Obligations.MarkdirtyFormsTheWrappedUnion := by
  intro s l t w h rest
  refine ⟨rfl, (s.markBox l t w h).advance 5, ?_, ?_, fun hz => ?_, fun hw hh he => ?_, fun hw hh hdw hdh => ?_⟩
  · rw [← s.markDirty_int]
    rfl
  · obtain ⟨x, y, a, b, e⟩ := s.markBox_eq l t w h
    rw [e]
    rfl
  · rw [s.markBox_zero l t w h hz]
    rfl
  · rw [s.markBox_adopt l t w h (not_or.mpr ⟨hw, hh⟩) he]
    rfl
  · rw [s.markBox_grow l t w h (not_or.mpr ⟨hw, hh⟩) (not_or.mpr ⟨hdw, hdh⟩)]
    exact ⟨toNat_minByte .., toNat_minByte .., wrapped_union_size .., wrapped_union_size ..⟩

/-- Settles O24: the edges of the union do not wrap, so that it is the bounding box. -/
theorem plainBoxesUniteWithoutWrap : Obligations.PlainBoxesUniteWithoutWrap := by
  intro s b hs hb
  by_cases he : s.dirtyEmpty = true
  · have hadopt : (s.mark b).dirty = b := State.mark_dirty_of_empty he hb
    have hself : Contains (s.mark b).dirty b := hadopt.symm ▸ Contains.refl b
    exact ⟨hadopt.symm ▸ hb, hself, fun _ => hadopt, fun h => absurd he (by simp [h])⟩
  · have hplain := State.plain_of_dirtyPlain hs (Bool.eq_false_iff.mpr he)
    obtain ⟨hu, hcontains, hsmallest⟩ := State.mark_bounds hplain hb
    obtain ⟨hx, hy, hr, hd⟩ := State.mark_edges hplain hb
    exact ⟨hu, hcontains b (by simp), fun h => absurd h he,
      fun _ => ⟨hx, hy, hr, hd, hcontains _ (by simp), fun c hc hcb => hsmallest c (by simp [hc, hcb])⟩⟩

/-- Settles O25: a bounding box contains its boxes, is the smallest that does, and so does not depend on their order. -/
theorem trackerIsMonotoneAbsorbingOrderFree : Obligations.TrackerIsMonotoneAbsorbingOrderFree := by
  refine ⟨fun s b hs hne hb => ?_, fun s bs bs' hs hbs hp => ?_⟩
  · have hbounds := State.mark_bounds (State.plain_of_dirtyPlain hs hne) hb
    have hmono := hbounds.contains s.dirty (by simp)
    refine ⟨hmono, fun habsorb => ?_⟩
    have hdirty : (s.mark b).dirty = s.dirty :=
      hmono.antisymm (hbounds.smallest s.dirty fun x hx => by
        rcases List.mem_pair.mp hx with rfl | rfl
        · exact .refl _
        · exact habsorb)
    exact State.markBoxes_eq_of_dirty (bs := [b]) (bs' := []) hdirty
  · by_cases hne : bs = []
    · subst hne
      obtain rfl := hp.nil_eq
      exact ⟨rfl, by simp, fun c h => absurd rfl h⟩
    · have hbounds := State.markBoxes_bounds_of_empty hs hne hbs
      have hbounds' := State.markBoxes_bounds_of_empty (bs := bs') hs (fun h => hne (h ▸ hp).eq_nil)
        fun b hb => hbs b (hp.mem_iff.mpr hb)
      exact ⟨State.markBoxes_eq_of_dirty (hbounds.unique_of_perm hbounds' hp), hbounds.contains,
        fun c _ => hbounds.smallest c⟩

/-- Settles O26: both replace the rectangle. -/
theorem invalidateAndValidateReplaceTheRectangle : Obligations.InvalidateAndValidateReplaceTheRectangle :=
  fun _ _ => ⟨rfl, rfl, rfl, rfl⟩

/-- Settles O27: along the host's answer, handed over or free. -/
theorem flushReportsTheHostsAnswer : Obligations.FlushReportsTheHostsAnswer := by
  intro s rest
  refine ⟨rfl, fun he => ?_, fun hne => ⟨fun more ha => ?_, fun more ha => ?_, fun ha => ?_⟩⟩
  · rw [exec, execFlush, flushEffect_of_empty he]
    rfl
  · have ht := State.transmit_of_answers ha
    rw [exec, execFlush, flushEffect_of_accepted hne (by rw [ht]), ht]
    rfl
  · have ht := State.transmit_of_answers ha
    rw [exec, execFlush, flushEffect_of_refused hne (by rw [ht]), ht]
    rfl
  · obtain ⟨ok, ht⟩ := State.transmit_of_no_answers ha
    refine ⟨ok, ?_⟩
    cases ok with
    | true => rw [exec, execFlush, flushEffect_of_accepted hne (by rw [ht]), ht]; rfl
    | false => rw [exec, execFlush, flushEffect_of_refused hne (by rw [ht]), ht]; rfl

/-- Settles O28: VALIDATE and a successful FLUSH leave an empty rectangle, a failed FLUSH the rectangle it showed. -/
theorem flushAfterFlushOrValidate : Obligations.FlushAfterFlushOrValidate := by
  have hflush : ∀ {s t : State}, exec .flush s = .next t → t = (flushEffect s).advance 1 := by
    intro s t h
    exact (Host.Outcome.next.inj h).symm
  intro s t u
  refine ⟨fun hv hu => ?_, fun ht hres hu => ?_, fun ht hres hu => ?_⟩
  · obtain rfl := Host.Outcome.next.inj hv
    rw [hflush hu, flushEffect_of_empty rfl]
    exact ⟨rfl, rfl, rfl⟩
  · obtain rfl := hflush ht
    obtain rfl := hflush hu
    rcases flushEffect_cases s with ⟨-, he⟩ | ⟨h0, -⟩
    · rw [flushEffect_of_empty (s := (flushEffect s).advance 1) he]
      exact ⟨rfl, rfl⟩
    · rw [State.advance_res, h0] at hres
      exact absurd hres (by decide)
  · obtain rfl := hflush ht
    obtain rfl := hflush hu
    rcases flushEffect_cases s with ⟨h1, -⟩ | ⟨-, hne, hdirty, hfb⟩
    · rw [State.advance_res, h1] at hres
      exact absurd hres (by decide)
    · simp only [State.dirty, Prod.mk.injEq] at hdirty
      obtain ⟨hx, hy, hw, hh⟩ := hdirty
      obtain ⟨ok, hok⟩ := flushEffect_transmissions hne
      obtain ⟨ok', hok'⟩ := flushEffect_transmissions (s := (flushEffect s).advance 1)
        (by simpa [State.dirtyEmpty, hw, hh] using hne)
      refine ⟨ok, ok', hok'.trans ?_⟩
      simp [hok, hx, hy, hw, hh, hfb]

end Sys2Proof.Machine
end

section
/-! SUPPORT. Drawing without the tracker: `State.untracked` forgets the dirty rectangle, `RES` and the host's side, and
every command's effect, seen through it, depends on nothing it forgets (R76, R86 (c)). -/

namespace Sys2Proof.Machine

/-- The state with the dirty rectangle, `RES` and the host's side forgotten. -/
def State.untracked (s : State) : State :=
  { s with dx := 0, dy := 0, dw := 0, dh := 0, res := 0, answers := [], transmissions := [], draws := 0 }

section
variable (s : State)

@[simp] theorem State.untracked_untracked : s.untracked.untracked = s.untracked := rfl
@[simp] theorem State.untracked_curx : s.untracked.curx = s.curx := rfl
@[simp] theorem State.untracked_cury : s.untracked.cury = s.cury := rfl
@[simp] theorem State.untracked_fb : s.untracked.fb = s.fb := rfl
@[simp] theorem State.untracked_setDirty (x y w h : Byte) : (s.setDirty x y w h).untracked = s.untracked := rfl
@[simp] theorem State.untracked_setRes (v : Half) : (s.setRes v).untracked = s.untracked := rfl
@[simp] theorem State.untracked_setFb (m : Memory) : (s.setFb m).untracked = s.untracked.setFb m := rfl
@[simp] theorem State.untracked_setCursor (x y : Byte) :
    (s.setCursor x y).untracked = s.untracked.setCursor x y := rfl
@[simp] theorem State.untracked_advance (n : Nat) : (s.advance n).untracked = s.untracked.advance n := rfl
@[simp] theorem State.glyph_untracked (c : Byte) : s.untracked.glyph c = s.glyph c := rfl
@[simp] theorem State.bitmapBit_untracked (k : Nat) : s.untracked.bitmapBit k = s.bitmapBit k := rfl
@[simp] theorem widthOf_untracked (c : Byte) : widthOf s.untracked c = widthOf s c := rfl

@[simp] theorem SinkCall.inDomain_untracked : SinkCall.inDomain s.untracked = SinkCall.inDomain s := by
  funext c; cases c <;> rfl

@[simp] theorem SinkCall.writes_untracked : SinkCall.writes s.untracked = SinkCall.writes s := by
  funext c; cases c <;> rfl

@[simp] theorem State.untracked_markBox (l t w h : Byte) : (s.markBox l t w h).untracked = s.untracked := by
  obtain ⟨_, _, _, _, e⟩ := s.markBox_eq l t w h
  rw [e, State.untracked_setDirty]

@[simp] theorem State.untracked_markDirty (l t w h : Int) : (s.markDirty l t w h).untracked = s.untracked :=
  s.untracked_markBox ..

@[simp] theorem untracked_markCorner (cx cy r : Int) (m : Byte) : (markCorner cx cy r m s).untracked = s.untracked := by
  simp only [markCorner, apply_ite State.untracked, State.untracked_markDirty, ite_self]

@[simp] theorem State.untracked_transmit : s.transmit.2.untracked = s.untracked := by
  unfold State.transmit State.takeAnswer
  cases s.answers <;> rfl

@[simp] theorem untracked_flushEffect : (flushEffect s).untracked = s.untracked := by
  simp only [flushEffect, apply_ite State.untracked, State.untracked_setRes, State.untracked_setDirty,
    State.untracked_transmit, ite_self]

end

/-- Sink calls draw the same with the tracker forgotten first. -/
@[simp] theorem map_untracked_runSinks (calls : List SinkCall) (s : State) :
    (runSinks calls s).map State.untracked = runSinks calls s.untracked := by
  rw [runSinks_eq, runSinks_eq, SinkCall.inDomain_untracked, SinkCall.writes_untracked]
  split <;> rfl

@[simp] theorem map_untracked_run (c : SinkCall) (s : State) :
    (c.run s).map State.untracked = c.run s.untracked := by
  rw [← runSinks_singleton, ← runSinks_singleton, map_untracked_runSinks]

/-- Blitting reads the glyph's bits and draws, and looks at nothing else. -/
@[simp] theorem map_untracked_blitCells (g : Glyph) (ox oy : Byte) (cells : List (Nat × Nat)) (s : State) :
    (blitCells g ox oy cells s).map State.untracked = blitCells g ox oy cells s.untracked := by
  induction cells generalizing s with
  | nil => rfl
  | cons cr rest ih =>
    simp only [blitCells, State.bitmapBit_untracked, ← map_untracked_run]
    cases s.bitmapBit (g.bitmapOffset + cr.2 * g.width + cr.1) with
    | error k => rfl
    | ok bit =>
      cases bit with
      | false => exact ih s
      | true =>
        cases (SinkCall.pixel (ox.int + cr.1) (oy.int + cr.2)).run s with
        | error k => rfl
        | ok t => exact ih t

/-- An effect is the same, but for what is forgotten, from two states that differ in what is forgotten. -/
def IgnoresTracker (f : State → Except FaultCode State) : Prop :=
  ∀ s, (f s).map State.untracked = (f s.untracked).map State.untracked

/-- One effect after another. -/
theorem IgnoresTracker.bind {f g : State → Except FaultCode State} (hf : IgnoresTracker f) (hg : IgnoresTracker g) :
    IgnoresTracker fun s => f s >>= g := by
  intro s
  have hfs := hf s
  change (f s >>= g).map State.untracked = (f s.untracked >>= g).map State.untracked
  cases h : f s with
  | error k =>
    cases h' : f s.untracked with
    | error k' =>
      rw [h, h'] at hfs
      exact hfs
    | ok t' => simp [h, h', Except.map] at hfs
  | ok t =>
    cases h' : f s.untracked with
    | error k' => simp [h, h', Except.map] at hfs
    | ok t' =>
      have ht : t.untracked = t'.untracked := by simpa [h, h', Except.map] using hfs
      calc (g t).map State.untracked
        _ = (g t.untracked).map State.untracked := hg t
        _ = (g t'.untracked).map State.untracked := by rw [ht]
        _ = (g t').map State.untracked := (hg t').symm

/-- From states that differ only in what is forgotten, the effect completes in such states too. -/
theorem IgnoresTracker.completes {f : State → Except FaultCode State} (hf : IgnoresTracker f) {s s' t : State}
    (hs : s.untracked = s'.untracked) (h : f s = .ok t) : ∃ t', f s' = .ok t' ∧ t'.untracked = t.untracked := by
  have heq : (f s).map State.untracked = (f s').map State.untracked := (hf s).trans (hs ▸ (hf s').symm)
  rw [h] at heq
  cases h' : f s' with
  | error k => simp [h', Except.map] at heq
  | ok t' => exact ⟨t', rfl, by simpa [h', Except.map] using heq.symm⟩

theorem drawShape_ignoresTracker (x y w h : Byte) (calls : List SinkCall) :
    IgnoresTracker (drawShape x y w h calls) := by
  intro s
  unfold drawShape
  split
  · rfl
  · simp

theorem lineTo_eq_bind (x y : Byte) (s : State) :
    lineTo x y s = runSinks (lineCalls s.curx.int s.cury.int x.int y.int) (shapeMarked s (.lineto x y)) >>=
      fun t => .ok (t.setCursor x y) := by
  simp only [lineTo, shapeMarked]
  cases runSinks _ _ <;> rfl

theorem lineTo_ignoresTracker (x y : Byte) : IgnoresTracker (lineTo x y) := by
  simp only [funext (lineTo_eq_bind x y)]
  exact .bind (fun s => by simp [shapeMarked]) fun s => rfl

theorem cornerEffect_ignoresTracker (cx cy r m : Byte) : IgnoresTracker (cornerEffect cx cy r m) := by
  intro s
  unfold cornerEffect
  split
  · simp
  · rfl

theorem drawGlyph_eq_bind (g : Glyph) (s : State) :
    drawGlyph g s = blitCells g (s.glyphOrigin g).1 (s.glyphOrigin g).2 (boxCells g.width g.height)
      (s.markDirty (s.glyphOrigin g).1.int (s.glyphOrigin g).2.int g.width g.height) >>=
      fun t => .ok (t.setCursor (t.curx + g.xAdvance) t.cury) := by
  simp only [drawGlyph, State.glyphOrigin]
  cases blitCells _ _ _ _ _ <;> rfl

theorem drawGlyph_ignoresTracker (g : Glyph) : IgnoresTracker (drawGlyph g) := by
  simp only [funext (drawGlyph_eq_bind g)]
  exact .bind (fun s => by simp [State.glyphOrigin]) fun s => rfl

theorem drawChar_ignoresTracker (c : Byte) : IgnoresTracker (drawChar c) := by
  intro s
  simp only [drawChar, State.glyph_untracked]
  cases s.glyph c with
  | error k => rfl
  | ok g? =>
    cases g? with
    | none => rfl
    | some g => exact drawGlyph_ignoresTracker g s

theorem drawString_cons (c : Byte) (rest : List Byte) (s : State) :
    drawString (c :: rest) s = drawChar c s >>= drawString rest := by
  rw [drawString]
  cases drawChar c s <;> rfl

theorem drawString_ignoresTracker (codes : List Byte) : IgnoresTracker (drawString codes) := by
  induction codes with
  | nil => exact fun s => rfl
  | cons c rest ih =>
    rw [funext (drawString_cons c rest)]
    exact (drawChar_ignoresTracker c).bind ih

theorem widthSum_untracked (s : State) (sum : Nat) (codes : List Byte) :
    widthSum s.untracked sum codes = widthSum s sum codes := by
  induction codes generalizing sum with
  | nil => rfl
  | cons c rest ih =>
    simp only [widthSum, widthOf_untracked, ih]

/-- Every command ends as `State.finish` ends an effect that ignores the tracker. -/
theorem exec_ignoresTracker (i : Instr) :
    ∃ f : State → Except FaultCode State, (∀ s, exec i s = s.finish i.length (f s)) ∧ IgnoresTracker f := by
  cases i with
  | moveto x y => exact ⟨fun s => .ok (s.setCursor x y), fun s => rfl, fun s => rfl⟩
  | setmode m => exact ⟨_, fun s => rfl, fun s => by cases modeOperand m <;> rfl⟩
  | setfont en => exact ⟨_, fun s => rfl, fun s => by cases fontOperand en <;> rfl⟩
  | clear =>
    exact ⟨fun s => .ok ((s.setFb ⟨.zero, []⟩).setDirty 0 0 s.width (BitVec.ofNat 8 s.h)), fun s => rfl, fun s => rfl⟩
  | markdirty l t w h =>
    exact ⟨fun s => .ok (s.markDirty l.int t.int w.int h.int), fun s => rfl, fun s => by simp [Except.map]⟩
  | invalidate => exact ⟨fun s => .ok (s.setDirty 0 0 s.width (BitVec.ofNat 8 s.h)), fun s => rfl, fun s => rfl⟩
  | validate => exact ⟨fun s => .ok (s.setDirty 0 0 0 0), fun s => rfl, fun s => rfl⟩
  | flush => exact ⟨fun s => .ok (flushEffect s), fun s => rfl, fun s => by simp [Except.map]⟩
  | pixel x y => exact ⟨_, fun s => rfl, fun s => by simp⟩
  | lineto x y => exact ⟨_, fun s => rfl, lineTo_ignoresTracker x y⟩
  | framerect x y w h | paintrect x y w h | frameoval x y w h | paintoval x y w h | framerrect x y w h c
  | paintrrect x y w h c => exact ⟨_, fun s => rfl, drawShape_ignoresTracker x y w h _⟩
  | corner cx cy r m => exact ⟨_, fun s => rfl, cornerEffect_ignoresTracker cx cy r m⟩
  | widthc c => exact ⟨_, fun s => rfl, fun s => by rw [widthOf_untracked]; cases widthOf s c <;> rfl⟩
  | widths cs => exact ⟨_, fun s => rfl, fun s => by rw [widthSum_untracked]; cases widthSum s 0 cs <;> rfl⟩
  | drawchar c => exact ⟨_, fun s => rfl, drawChar_ignoresTracker c⟩
  | drawstr cs => exact ⟨_, fun s => rfl, drawString_ignoresTracker cs⟩

end Sys2Proof.Machine
end

section
/-! PROOFS. The noninterference statement of `40_dirty.md`. -/

namespace Sys2Proof.Machine

/-- Settles O59: every command's effect ignores the tracker, and so does the end of a command. -/
theorem drawingIgnoresTheTracker : Obligations.DrawingIgnoresTheTracker := by
  intro i s s' t t' hs hf h h'
  obtain ⟨f, hexec, hignores⟩ := exec_ignoresTracker i
  obtain ⟨u, hu, rfl⟩ := s.finish_completes i.length (f s) t (hexec s ▸ h) hf
  obtain ⟨u', hu', huu⟩ := hignores.completes (s' := s') (hs ▸ rfl) hu
  rw [hexec s', hu', State.finish_ok] at h'
  obtain rfl := Host.Outcome.next.inj h'
  have hkept : ∀ {α : Type} (p : State → α),
      p (u'.advance i.length).untracked = p (u.advance i.length).untracked := fun p => by
    rw [State.untracked_advance, State.untracked_advance, huu]
  exact ⟨(hkept State.fault).trans hf, hkept State.fb, hkept State.curx, hkept State.cury, hkept State.mode,
    hkept State.fonten, hkept State.cp⟩

end Sys2Proof.Machine
end

section
/-! SUPPORT. The pixels a command's sink calls cover lie in its rectangle: rectangles (R96, R98), lines (R91 to R93),
corners (R112) and rounded rectangles (R116). -/

namespace Sys2Proof.Machine

theorem SinkCall.within.mono {c : SinkCall} {x y a b x' y' a' b' : Int} (h : c.within x y a b) (hx : x' ≤ x)
    (hxa : x + a ≤ x' + a') (hy : y' ≤ y) (hyb : y + b ≤ y' + b') : c.within x' y' a' b' := by
  cases c <;> simp only [SinkCall.within] at h ⊢ <;> omega

/-- A call within a rectangle that is an empty or plain box, its corner reduced `mod 256`, covers pixels of the box. -/
theorem SinkCall.within.boxHolds {c : SinkCall} {x y : Int} {b : TrackedBox}
    (hc : c.within x y ((b.2.2.1.toNat : Int) - 1) ((b.2.2.2.toNat : Int) - 1)) (hx : wrap8 x = b.1)
    (hy : wrap8 y = b.2.1) (hb : EmptyOrPlain b) {u v : Nat} (h : c.covers u v = true) : BoxHolds b u v := by
  have hsize : 0 < b.2.2.1.toNat ∧ 0 < b.2.2.2.toNat := by
    cases c <;> simp only [SinkCall.within] at hc <;> omega
  rw [EmptyOrPlain, ← or_assoc] at hb
  obtain ⟨-, hbx, hby⟩ := (plainTrackedBox_iff b).mp (hb.resolve_left ((nonempty_iff _ _).mpr hsize))
  rw [BoxHolds, inBox_iff]
  rw [← hx, wrap8_toNat] at hbx ⊢
  rw [← hy, wrap8_toNat] at hby ⊢
  cases c <;> simp only [SinkCall.within] at hc <;>
    simp only [SinkCall.covers, wrap8_toNat, Bool.and_eq_true, beq_iff_eq, decide_eq_true_eq] at h <;> omega

/-! ## Rectangles -/

theorem paintBody_within {x y : Int} {w h : Nat} (hh : 1 ≤ h) {c : SinkCall} (hc : c ∈ paintBody x y w h) :
    c.within x y ((w : Int) - 1) ((h : Int) - 1) := by
  simp only [paintBody, List.mem_map, bind_pure_comp, List.map_eq_map, List.mem_range] at hc
  obtain ⟨_, ⟨i, hi, rfl⟩, rfl⟩ := hc
  simp only [SinkCall.within]
  omega

theorem frameBody_within {x y : Int} {w h : Nat} (hw : 1 ≤ w) (hh : 1 ≤ h) {c : SinkCall}
    (hc : c ∈ frameBody x y w h) : c.within x y ((w : Int) - 1) ((h : Int) - 1) := by
  unfold frameBody at hc
  split at hc
  · exact paintBody_within hh hc
  · simp only [List.mem_cons] at hc
    rcases hc with rfl | rfl | hc
    · simp only [SinkCall.within]; omega
    · simp only [SinkCall.within]; omega
    · split at hc
      · simp only [List.mem_cons, List.not_mem_nil, or_false] at hc
        rcases hc with rfl | rfl <;> simp only [SinkCall.within] <;> omega
      · cases hc

/-! ## Lines -/

/-- The target is a signed step per unit of distance away. -/
theorem signed_distance (a b : Int) : b = a + (if a < b then 1 else -1) * ((b - a).natAbs : Int) := by
  split <;> omega

theorem signed_distance_inj {sx : Int} (hs : sx = 1 ∨ sx = -1) (xs i d : Int) :
    xs + sx * i = xs + sx * d ↔ i = d := by
  rcases hs with rfl | rfl <;> omega

theorem step_sign (a b : Int) : (if a < b then (1 : Int) else -1) = 1 ∨ (if a < b then (1 : Int) else -1) = -1 := by
  split
  · exact .inl rfl
  · exact .inr rfl

theorem lineWalkCalls_within {x0 y0 x1 y1 : Int} {c : SinkCall} (hc : c ∈ lineWalkCalls x0 y0 x1 y1) :
    c.within (min x0 x1) (min y0 y1) ((x1 - x0).natAbs : Int) ((y1 - y0).natAbs : Int) := by
  have hx := signed_distance x0 x1
  have hy := signed_distance y0 y1
  obtain ⟨p, q, hp, hp', hq, hq', rfl⟩ := lineWalk_pixels ((x1 - x0).natAbs : Int) ((y1 - y0).natAbs : Int) _ _ x0 y0
    (step_sign x0 x1) (step_sign y0 y1) ((x1 - x0).natAbs + (y1 - y0).natAbs + 1) 0 0
    ((x1 - x0).natAbs - (y1 - y0).natAbs) le_rfl (by omega) le_rfl (by omega) c (by
      rw [← hx, ← hy, mul_zero, mul_zero, add_zero, add_zero]
      exact hc)
  simp only [SinkCall.within]
  split <;> split <;> omega

theorem lineCalls_within {x0 y0 x1 y1 : Int} {c : SinkCall} (hc : c ∈ lineCalls x0 y0 x1 y1) :
    c.within (min x0 x1) (min y0 y1) ((x1 - x0).natAbs : Int) ((y1 - y0).natAbs : Int) := by
  unfold lineCalls at hc
  split at hc
  · obtain rfl := List.mem_singleton.mp hc
    simp only [SinkCall.within]
    omega
  · split at hc
    · obtain rfl := List.mem_singleton.mp hc
      simp only [SinkCall.within]
      omega
    · exact lineWalkCalls_within hc

/-- The walk ends at its target and not before: after `i` x steps and `j` y steps the error term is
`(j + 1) dx - (i + 1) dy`, which decides at least one step, and a step past the target's column or row only at the
target (R93, R94). -/
theorem lineWalk_mem_target (dx dy sx sy xs ys : Int) (hsx : sx = 1 ∨ sx = -1) (hsy : sy = 1 ∨ sy = -1)
    (hdx : 0 < dx) (hdy : 0 < dy) (fuel : Nat) (i j err : Int) (hi : i ≤ dx) (hj : j ≤ dy)
    (herr : err = (j + 1) * dx - (i + 1) * dy) (hfuel : dx + dy + 1 - i - j ≤ fuel) :
    SinkCall.pixel (xs + sx * dx) (ys + sy * dy) ∈
      lineWalk dx dy sx sy (xs + sx * dx) (ys + sy * dy) fuel (xs + sx * i) (ys + sy * j) err := by
  induction fuel generalizing i j err with
  | zero => omega
  | succ n ih =>
    unfold lineWalk
    by_cases hend : i = dx ∧ j = dy
    · obtain ⟨rfl, rfl⟩ := hend
      exact List.mem_cons_self
    · have hcol : 2 * err > -dy → i ≠ dx := by
        rintro hstep rfl
        have : dy - 1 < j := by nlinarith
        exact hend ⟨rfl, by omega⟩
      have hrow : 2 * err < dx → j ≠ dy := by
        rintro hstep rfl
        have : dx - 1 < i := by nlinarith
        exact hend ⟨by omega, rfl⟩
      refine List.mem_cons_of_mem _ ?_
      rw [if_neg (by simpa [signed_distance_inj hsx] using hcol),
        if_neg (by simpa [signed_distance_inj hsy] using hrow)]
      simp only [decide_eq_true_eq]
      convert ih (if 2 * err > -dy then i + 1 else i) (if 2 * err < dx then j + 1 else j) _ ?_ ?_ ?_ ?_ using 2
      · split <;> ring
      · split <;> ring
      · split <;> omega
      · split <;> omega
      · subst herr; split <;> split <;> ring
      · split <;> split <;> omega

/-- The walk has a call at either end of it of its ends. -/
theorem lineWalkCalls_ends {x0 y0 x1 y1 : Int} (hx : x0 ≠ x1) (hy : y0 ≠ y1) :
    SinkCall.pixel x0 y0 ∈ lineWalkCalls x0 y0 x1 y1 ∧ SinkCall.pixel x1 y1 ∈ lineWalkCalls x0 y0 x1 y1 := by
  refine ⟨List.mem_cons_self, ?_⟩
  have htarget := lineWalk_mem_target ((x1 - x0).natAbs : Int) ((y1 - y0).natAbs : Int) _ _ x0 y0
    (step_sign x0 x1) (step_sign y0 y1) (by omega) (by omega) ((x1 - x0).natAbs + (y1 - y0).natAbs + 1) 0 0
    ((x1 - x0).natAbs - (y1 - y0).natAbs) (by omega) (by omega) (by ring) (by push_cast; omega)
  rwa [← signed_distance, ← signed_distance, mul_zero, mul_zero, add_zero, add_zero] at htarget

/-- A line that raises no fault has both of its ends on the display (R94, R95). -/
theorem line_ends_on_display {s : State} {x0 y0 x1 y1 : Byte}
    (h : ∀ c ∈ lineCalls x0.int y0.int x1.int y1.int, c.inDomain s = true) :
    (x0.toNat < s.w ∧ y0.toNat < s.h) ∧ x1.toNat < s.w ∧ y1.toNat < s.h := by
  have hx0 := x0.isLt
  have hx1 := x1.isLt
  have hy0 := y0.isLt
  have hy1 := y1.isLt
  unfold lineCalls Byte.int at h
  split at h
  case isTrue hy =>
    have hrun := h _ List.mem_cons_self
    simp only [SinkCall.inDomain, wrap8_toNat, Bool.and_eq_true, decide_eq_true_eq] at hrun
    omega
  case isFalse hy =>
    split at h
    case isTrue hx =>
      have hrun := h _ List.mem_cons_self
      simp only [SinkCall.inDomain, wrap8_toNat, Bool.and_eq_true, decide_eq_true_eq] at hrun
      omega
    case isFalse hx =>
      obtain ⟨hstart, hend⟩ := lineWalkCalls_ends hx hy
      have hs := h _ hstart
      have he := h _ hend
      simp only [SinkCall.inDomain, wrap8_toNat, Bool.and_eq_true, decide_eq_true_eq] at hs he
      omega

/-! ## Corners and rounded rectangles -/

/-- The left column of the box of the quadrant of mask bit `q` (R112, R114). -/
def quadrantLeft (cx r : Int) : Nat → Int
  | 0 | 3 => cx - r
  | _ => cx + 1

/-- The top row of the box of the quadrant of mask bit `q` (R112, R114). -/
def quadrantTop (cy r : Int) : Nat → Int
  | 0 | 1 => cy - r
  | _ => cy + 1

theorem cornerEmit_quadrant {cx cy ex ey r : Int} {m : Byte} {xstep : Bool} (hex : 1 ≤ ex) (hexr : ex ≤ r)
    (hey : 1 ≤ ey) (heyr : ey ≤ r) {c : SinkCall} (hc : c ∈ cornerEmit cx cy m ex ey xstep) :
    ∃ q < 4, maskBit m q = true ∧ c.within (quadrantLeft cx r q) (quadrantTop cy r q) (r - 1) (r - 1) := by
  have hselected : ∀ (q : Nat) (d : SinkCall), c ∈ (if maskBit m q then [d] else []) → q < 4 →
      d.within (quadrantLeft cx r q) (quadrantTop cy r q) (r - 1) (r - 1) →
      ∃ q < 4, maskBit m q = true ∧ c.within (quadrantLeft cx r q) (quadrantTop cy r q) (r - 1) (r - 1) := by
    intro q d h hq hd
    split at h
    · obtain rfl := List.mem_singleton.mp h
      exact ⟨q, hq, ‹_›, hd⟩
    · cases h
  unfold cornerEmit at hc
  split at hc
  · split at hc
    · simp only [List.mem_append] at hc
      rcases hc with ((hc | hc) | hc) | hc <;> refine hselected _ _ hc (by decide) ?_ <;>
        simp only [SinkCall.within, quadrantLeft, quadrantTop] <;> omega
    · cases hc
  · simp only [List.mem_append] at hc
    rcases hc with ((hc | hc) | hc) | hc <;> refine hselected _ _ hc (by decide) ?_ <;>
      simp only [SinkCall.within, quadrantLeft, quadrantTop] <;> omega

/-- Every call of a corner arc lies in the `r × r` box of a selected quadrant (R113 (c)). -/
theorem cornerCalls_quadrant {cx cy : Int} {r : Nat} {m : Byte} {c : SinkCall} (hc : c ∈ cornerCalls cx cy r m) :
    ∃ q < 4, maskBit m q = true ∧
      c.within (quadrantLeft cx r q) (quadrantTop cy r q) ((r : Int) - 1) ((r : Int) - 1) := by
  obtain ⟨ex, ey, xstep, hex, hexr, hey, heyr, hc⟩ := cornerCalls_emits cx cy r m c hc
  exact cornerEmit_quadrant hex hexr hey heyr hc

/-- The masks of R116 select one quadrant each. -/
theorem roundRect_mask_bit : ∀ (fill : Bool), ∀ k < 4, ∀ q < 4,
    maskBit ((if fill then (0x10 : Byte) else 0) ||| 1#8 <<< k) q = true → q = k := by decide

theorem roundRect_corner_within {fill : Bool} {cx cy : Int} {r k : Nat} (hk : k < 4) {c : SinkCall}
    (hc : c ∈ cornerCalls cx cy r ((if fill then 0x10 else 0) ||| 1#8 <<< k)) :
    c.within (quadrantLeft cx r k) (quadrantTop cy r k) ((r : Int) - 1) ((r : Int) - 1) := by
  obtain ⟨q, hq, hm, hc⟩ := cornerCalls_quadrant hc
  exact roundRect_mask_bit fill k hk q hq hm ▸ hc

theorem two_mul_clampRadius_le (w h corner : Nat) :
    2 * clampRadius w h corner ≤ w ∧ 2 * clampRadius w h corner ≤ h := by
  unfold clampRadius
  omega

/-- Every sink call of a rounded rectangle lies in the rectangle (R119 (b)). -/
theorem roundRectCalls_within {fill : Bool} {x y : Int} {w h r : Nat} (hw : 1 ≤ w) (hh : 1 ≤ h) (hrw : 2 * r ≤ w)
    (hrh : 2 * r ≤ h) {c : SinkCall} (hc : c ∈ roundRectCalls fill x y w h r) :
    c.within x y ((w : Int) - 1) ((h : Int) - 1) := by
  unfold roundRectCalls at hc
  split at hc
  · split at hc
    · exact paintBody_within hh hc
    · exact frameBody_within hw hh hc
  · rename_i hr
    simp only [List.mem_append] at hc
    rcases hc with (((hc | hc) | hc) | hc) | hc
    · refine (roundRect_corner_within (k := 0) (by decide) hc).mono ?_ ?_ ?_ ?_ <;>
        simp only [quadrantLeft, quadrantTop] <;> omega
    · refine (roundRect_corner_within (k := 1) (by decide) hc).mono ?_ ?_ ?_ ?_ <;>
        simp only [quadrantLeft, quadrantTop] <;> omega
    · refine (roundRect_corner_within (k := 2) (by decide) hc).mono ?_ ?_ ?_ ?_ <;>
        simp only [quadrantLeft, quadrantTop] <;> omega
    · refine (roundRect_corner_within (k := 3) (by decide) hc).mono ?_ ?_ ?_ ?_ <;>
        simp only [quadrantLeft, quadrantTop] <;> omega
    · split at hc
      · simp only [List.mem_append] at hc
        rcases hc with (hc | hc) | hc <;> split at hc
        · exact (paintBody_within (by omega) hc).mono (by omega) (by omega) (by omega) (by omega)
        · cases hc
        · exact (paintBody_within (by omega) hc).mono (by omega) (by omega) (by omega) (by omega)
        · cases hc
        · exact (paintBody_within (by omega) hc).mono (by omega) (by omega) (by omega) (by omega)
        · cases hc
      · simp only [List.mem_append] at hc
        rcases hc with hc | hc <;> split at hc
        · simp only [List.mem_cons, List.not_mem_nil, or_false] at hc
          rcases hc with rfl | rfl <;> simp only [SinkCall.within] <;> omega
        · cases hc
        · simp only [List.mem_cons, List.not_mem_nil, or_false] at hc
          rcases hc with rfl | rfl <;> simp only [SinkCall.within] <;> omega
        · cases hc

end Sys2Proof.Machine
end

section
/-! SUPPORT. The boxes a drawing command declares (R87, R80): the command marks them and draws its sink calls, which
cover pixels of the boxes alone. -/

namespace Sys2Proof.Machine

/-! ## A shape command is its boxes and its sink calls -/

/-- A shape marks its rectangle and draws; of zero size it does neither (R88). -/
theorem drawShape_eq_runSinks (x y w h : Byte) (calls : List SinkCall) (s : State) :
    drawShape x y w h calls s =
      runSinks (if w = 0 ∨ h = 0 then [] else calls) (s.markDirty x.int y.int w.int h.int) := by
  unfold drawShape
  split
  · rename_i hz
    rw [State.markDirty_int, s.markBox_zero _ _ _ _ hz]
    rfl
  · rfl

/-- Sink calls leave the cursor where it is. -/
theorem map_setCursor_runSinks (calls : List SinkCall) {s : State} {x y : Byte} (hx : s.curx = x) (hy : s.cury = y) :
    (runSinks calls s).map (State.setCursor · x y) = runSinks calls s := by
  subst hx hy
  rw [runSinks_eq]
  split <;> rfl

/-- A shape command marks its boxes, makes its sink calls and leaves the cursor its rule names (R87, R90). -/
theorem exec_shape {s : State} {i : Instr} {calls : List SinkCall} (h : shapeCalls s i = some calls)
    (hi : i.legalOperands = true) : exec i s = s.finish i.length
      ((runSinks calls (shapeMarked s i)).map (State.setCursor · (shapeCursor s i).1 (shapeCursor s i).2)) := by
  cases i with
  | lineto x y =>
    cases h
    exact congrArg (s.finish 3) (lineTo_eq_bind x y s)
  | pixel x y =>
    cases h
    exact congrArg (s.finish 3) (map_setCursor_runSinks _ (State.markDirty_curx ..) (State.markDirty_cury ..)).symm
  | framerect x y w h' | paintrect x y w h' | frameoval x y w h' | paintoval x y w h' | framerrect x y w h' c
  | paintrrect x y w h' c =>
    cases h
    exact congrArg (s.finish _) ((drawShape_eq_runSinks x y w h' _ s).trans
      (map_setCursor_runSinks _ (State.markDirty_curx ..) (State.markDirty_cury ..)).symm)
  | corner cx cy r m =>
    cases h
    obtain ⟨hx, hy⟩ := (markCorner_drawsTo cx.int cy.int r.int m s).cursor
    have hm : cornerMaskLegal m = true := by
      by_contra hm
      simp [cornerMaskLegal_eq_false (cx := cx) (cy := cy) (r := r) (Bool.eq_false_iff.mpr hm)] at hi
    exact congrArg (s.finish 5) ((if_pos hm).trans (map_setCursor_runSinks _ hx hy).symm)
  | _ => cases h

/-! ## The boxes as bytes -/

theorem wrap8_sub (a b : Byte) : wrap8 (a.int - b.int) = a - b := by
  apply BitVec.eq_of_toNat_eq
  rw [wrap8_toNat, BitVec.toNat_sub, Byte.int, Byte.int]
  omega

theorem wrap8_add_one (a : Byte) : wrap8 (a.int + 1) = a + 1 := by
  apply BitVec.eq_of_toNat_eq
  rw [wrap8_toNat, BitVec.toNat_add, Byte.int]
  rfl

theorem wrap8_min (a b : Byte) : wrap8 (min a.int b.int) = minByte a b := by
  apply BitVec.eq_of_toNat_eq
  rw [wrap8_toNat, toNat_minByte, Byte.int, Byte.int]
  omega

/-- The number of columns or rows from `a` to `b`, both counted, `mod 256`. -/
theorem wrap8_distance (a b : Byte) : wrap8 ((b.int - a.int).natAbs + 1) = maxByte a b - minByte a b + 1 := by
  apply BitVec.eq_of_toNat_eq
  rw [wrap8_toNat, BitVec.toNat_add, BitVec.toNat_sub, toNat_maxByte, toNat_minByte, Byte.int, Byte.int]
  change _ = (_ + 1) % 2 ^ 8
  omega

theorem State.markBoxes_ite (s : State) (p : Bool) (b : TrackedBox) :
    s.markBoxes (if p then [b] else []) = if p then s.mark b else s := by
  cases p <;> rfl

/-- The boxes a shape command marks are the declared ones (R87). -/
theorem shapeMarked_eq_markBoxes {s : State} {i : Instr} (h : (shapeCalls s i).isSome = true) :
    shapeMarked s i = s.markBoxes (declaredBoxes s i) := by
  cases i with
  | pixel x y => simp [shapeMarked, declaredBoxes, State.markBoxes, State.markDirty, show wrap8 1 = 1#8 from rfl]
  | lineto x y =>
    simp only [shapeMarked, declaredBoxes, State.markBoxes, State.markDirty, wrap8_min, wrap8_distance]
  | framerect | paintrect | frameoval | paintoval | framerrect | paintrrect => exact State.markDirty_int ..
  | corner cx cy r m =>
    simp only [shapeMarked, declaredBoxes, State.markBoxes_append, State.markBoxes_ite, markCorner, State.markDirty,
      State.mark, wrap8_sub, wrap8_add_one, wrap8_int]
  | _ => cases h

/-! ## The sink calls stay in the boxes -/

/-- The calls of a shape with a rectangle cover pixels of the rectangle. -/
theorem rectangle_holds {x y w h : Byte} {calls : List SinkCall}
    (hcalls : 1 ≤ w.toNat → 1 ≤ h.toNat → ∀ c ∈ calls, c.within x.int y.int ((w.toNat : Int) - 1) ((h.toNat : Int) - 1))
    (hb : EmptyOrPlain (x, y, w, h)) {c : SinkCall} (hc : c ∈ if w = 0 ∨ h = 0 then [] else calls) {u v : Nat}
    (hcov : c.covers u v = true) : BoxHolds (x, y, w, h) u v := by
  split at hc
  · cases hc
  · rename_i hne
    obtain ⟨hw, hh⟩ := (nonempty_iff w h).mp hne
    exact (hcalls hw hh c hc).boxHolds (b := (x, y, w, h)) (wrap8_int x) (wrap8_int y) hb hcov

/-- A line on the display covers pixels of the box its endpoints span (R90). The box's size does not wrap: the display
has at most 255 columns and 128 rows. -/
theorem line_holds {s : State} {x0 y0 x1 y1 : Byte}
    (hdom : ∀ c ∈ lineCalls x0.int y0.int x1.int y1.int, c.inDomain s = true)
    (hb : EmptyOrPlain (minByte x0 x1, minByte y0 y1, maxByte x0 x1 - minByte x0 x1 + 1,
      maxByte y0 y1 - minByte y0 y1 + 1))
    {c : SinkCall} (hc : c ∈ lineCalls x0.int y0.int x1.int y1.int) {u v : Nat} (hcov : c.covers u v = true) :
    BoxHolds (minByte x0 x1, minByte y0 y1, maxByte x0 x1 - minByte x0 x1 + 1, maxByte y0 y1 - minByte y0 y1 + 1)
      u v := by
  have hw := s.w_le
  have hh := s.h_le
  obtain ⟨⟨hx0, hy0⟩, hx1, hy1⟩ := line_ends_on_display hdom
  have hsize : ∀ {a b : Byte}, a.toNat < 255 → b.toNat < 255 →
      ((maxByte a b - minByte a b + 1).toNat : Int) - 1 = ((b.int - a.int).natAbs : Int) := by
    intro a b ha hb
    rw [← wrap8_distance, wrap8_toNat, Byte.int, Byte.int]
    omega
  refine SinkCall.within.boxHolds (b := (_, _, _, _)) ?_ (wrap8_min x0 x1) (wrap8_min y0 y1) hb hcov
  simp only [hsize (show x0.toNat < 255 by omega) (show x1.toNat < 255 by omega),
    hsize (show y0.toNat < 255 by omega) (show y1.toNat < 255 by omega)]
  exact lineCalls_within hc

/-- The box of a selected quadrant is declared (R114). -/
theorem quadrant_declared {s : State} {cx cy r m : Byte} {q : Nat} (hq : q < 4) (hm : maskBit m q = true) :
    (wrap8 (quadrantLeft cx.int r.int q), wrap8 (quadrantTop cy.int r.int q), r, r) ∈
      declaredBoxes s (.corner cx cy r m) := by
  interval_cases q <;> simp [declaredBoxes, quadrantLeft, quadrantTop, wrap8_sub, wrap8_add_one, hm]

/-- Every pixel a shape command's calls cover lies in a box it declares (R80). -/
theorem shapeCalls_inside {s : State} {i : Instr} {calls : List SinkCall} (h : shapeCalls s i = some calls)
    (hb : ∀ b ∈ declaredBoxes s i, EmptyOrPlain b) (hdom : ∀ c ∈ calls, c.inDomain s = true) {c : SinkCall}
    (hc : c ∈ calls) {u v : Nat} (hcov : c.covers u v = true) : ∃ b ∈ declaredBoxes s i, BoxHolds b u v := by
  cases i with
  | pixel x y =>
    cases h
    have hbox := hb _ (List.mem_singleton_self _)
    obtain rfl := List.mem_singleton.mp hc
    refine ⟨_, List.mem_singleton_self _, ?_⟩
    refine SinkCall.within.boxHolds ?_ (wrap8_int x) (wrap8_int y) hbox hcov
    simp [SinkCall.within]
  | lineto x y =>
    cases h
    exact ⟨_, List.mem_singleton_self _, line_holds hdom (hb _ (List.mem_singleton_self _)) hc hcov⟩
  | framerect x y w h' =>
    cases h
    exact ⟨_, List.mem_singleton_self _, rectangle_holds (fun hw hh _ => frameBody_within hw hh)
      (hb _ (List.mem_singleton_self _)) hc hcov⟩
  | paintrect x y w h' =>
    cases h
    exact ⟨_, List.mem_singleton_self _, rectangle_holds (fun _ hh _ => paintBody_within hh)
      (hb _ (List.mem_singleton_self _)) hc hcov⟩
  | frameoval x y w h' | paintoval x y w h' =>
    cases h
    exact ⟨_, List.mem_singleton_self _, rectangle_holds (fun hw hh _ => ovalCalls_within _ _ _ _ _ hw hh _)
      (hb _ (List.mem_singleton_self _)) hc hcov⟩
  | framerrect x y w h' r | paintrrect x y w h' r =>
    cases h
    obtain ⟨hrw, hrh⟩ := two_mul_clampRadius_le w.toNat h'.toNat r.toNat
    exact ⟨_, List.mem_singleton_self _, rectangle_holds (fun hw hh _ => roundRectCalls_within hw hh hrw hrh)
      (hb _ (List.mem_singleton_self _)) hc hcov⟩
  | corner cx cy r m =>
    cases h
    obtain ⟨q, hq, hm, hwithin⟩ := cornerCalls_quadrant hc
    have hbox := quadrant_declared (s := s) (cx := cx) (cy := cy) (r := r) hq hm
    exact ⟨_, hbox, hwithin.boxHolds rfl rfl (hb _ hbox) hcov⟩
  | _ => cases h

/-! ## Glyphs -/

/-- The sizes of a glyph are bytes (R50). -/
theorem State.glyphEntry_sizes (s : State) (e : Nat) :
    Answers Imprecise (fun g => g.width < 256 ∧ g.height < 256) (s.glyphEntry e) :=
  (s.fontByte_answers _).bind fun _ _ => (s.fontByte_answers _).bind fun _ _ => (s.fontByte_answers _).bind fun b2 _ =>
    (s.fontByte_answers _).bind fun b3 _ => (s.fontByte_answers _).bind fun _ _ =>
    (s.fontByte_answers _).bind fun _ _ => (s.fontByte_answers _).bind fun _ _ => ⟨b2.isLt, b3.isLt⟩

theorem State.glyph_sizes {s : State} {code : Byte} {g : Glyph} (h : s.glyph code = .ok (some g)) :
    g.width < 256 ∧ g.height < 256 := by
  have hsizes : Answers Imprecise (fun g? => ∀ g, g? = some g → g.width < 256 ∧ g.height < 256) (s.glyph code) := by
    unfold State.glyph
    split
    · refine (s.fontByte_answers 0).bind fun first _ => (s.fontByte_answers 1).bind fun last _ => ?_
      split
      · exact fun g hg => nomatch hg
      · exact (s.glyphEntry_sizes _).bind fun g' hg' g hg => Option.some.inj hg ▸ hg'
    · exact fun g hg => nomatch hg
  exact hsizes.ok h g rfl

theorem mem_boxCells {w h : Nat} {cr : Nat × Nat} (hcr : cr ∈ boxCells w h) : cr.1 < w ∧ cr.2 < h := by
  simp only [boxCells, List.mem_flatMap, List.mem_map, List.mem_range] at hcr
  obtain ⟨r, hr, c, hc, rfl⟩ := hcr
  exact ⟨hc, hr⟩

/-- A computation in two parts completes where both do. -/
theorem bind_eq_ok {α β : Type} {r : Except FaultCode α} {f : α → Except FaultCode β} {b : β}
    (h : r >>= f = .ok b) : ∃ a, r = .ok a ∧ f a = .ok b := by
  cases r with
  | ok a => exact ⟨a, rfl, h⟩
  | error k => cases h

/-- A blit that completes is one `SinkPixel` per cell of some of its cells (R124). -/
theorem blitCells_eq_runSinks {g : Glyph} {ox oy : Byte} {cells : List (Nat × Nat)} {s t : State}
    (h : blitCells g ox oy cells s = .ok t) : ∃ drawn : List (Nat × Nat), (∀ cr ∈ drawn, cr ∈ cells) ∧
      runSinks (drawn.map fun cr => .pixel (ox.int + cr.1) (oy.int + cr.2)) s = .ok t := by
  induction cells generalizing s with
  | nil => exact ⟨[], by simp, h⟩
  | cons cr rest ih =>
    unfold blitCells at h
    split at h
    · cases h
    · obtain ⟨drawn, hdrawn, hrun⟩ := ih h
      exact ⟨drawn, fun x hx => List.mem_cons_of_mem _ (hdrawn x hx), hrun⟩
    · split at h
      · cases h
      · rename_i t' ht'
        obtain ⟨drawn, hdrawn, hrun⟩ := ih h
        refine ⟨cr :: drawn, ?_, ?_⟩
        · simp only [List.forall_mem_cons, List.mem_cons_self, true_and]
          exact fun x hx => List.mem_cons_of_mem _ (hdrawn x hx)
        · rw [List.map_cons, runSinks, ht']
          exact hrun

end Sys2Proof.Machine
end

section
/-! SUPPORT. What a command modifies lies in the rectangle it leaves: `Tracked` (R80). -/

namespace Sys2Proof.Machine

/-- `t` has a plain rectangle, and every pixel in which it differs from `s` lies in it (R80). -/
def Tracked (s t : State) : Prop :=
  t.dirtyPlain = true ∧
  ∀ u v, u < s.w → v < s.h → t.pixelAt u v ≠ s.pixelAt u v → BoxHolds t.dirty u v

/-- `CP` and the cursor show nothing. -/
theorem Tracked.advance {s t : State} (h : Tracked s t) (n : Nat) : Tracked s (t.advance n) := h

theorem Tracked.setCursor {s t : State} (h : Tracked s t) (x y : Byte) : Tracked s (t.setCursor x y) := h

theorem State.dirtyPlain_of_dirty {s t : State} (h : t.dirty = s.dirty) (hs : s.dirtyPlain = true) :
    t.dirtyPlain = true := by
  simp only [State.dirty, Prod.mk.injEq] at h
  obtain ⟨hx, hy, hw, hh⟩ := h
  simpa only [State.dirtyPlain, State.dirtyEmpty, hx, hy, hw, hh] using hs

theorem SameParams.display {s t : State} (h : SameParams s t) : t.w = s.w ∧ t.h = s.h := by
  simp only [State.w, State.h, h.width, h.height, and_self]

theorem SameParams.pixelAt {s t : State} (h : SameParams s t) (hfb : t.fb = s.fb) : t.pixelAt = s.pixelAt := by
  funext u v
  simp only [State.pixelAt, State.fbIndex, State.w, State.pages, h.width, h.height, hfb]

/-- A command that leaves `FB` as it was modifies no pixel. -/
theorem tracked_of_fb {s t : State} (hparams : SameParams s t) (hfb : t.fb = s.fb) (ht : t.dirtyPlain = true) :
    Tracked s t :=
  ⟨ht, fun _ _ _ _ hne => absurd (by rw [hparams.pixelAt hfb]) hne⟩

theorem State.markBoxes_params (s : State) (bs : List TrackedBox) : SameParams s (s.markBoxes bs) := by
  rw [s.markBoxes_eq_setDirty bs]
  exact ⟨rfl, rfl, rfl, rfl, rfl⟩

theorem State.markBoxes_keeps (s : State) (bs : List TrackedBox) :
    (s.markBoxes bs).fb = s.fb ∧ SinkCall.inDomain (s.markBoxes bs) = SinkCall.inDomain s := by
  rw [s.markBoxes_eq_setDirty bs]
  exact ⟨rfl, funext fun c => by cases c <;> rfl⟩

/-- Sink calls that do not fault are in their domains, and leave the rectangle as it is. -/
theorem runSinks_ok {s t : State} {calls : List SinkCall} (h : runSinks calls s = .ok t) :
    (∀ c ∈ calls, c.inDomain s = true) ∧ t.dirty = s.dirty := by
  rw [runSinks_eq] at h
  split at h
  · rename_i hdom
    cases h
    exact ⟨List.all_eq_true.mp hdom, rfl⟩
  · cases h

/-- Sink calls that cover pixels of the boxes marked before them modify pixels of the tracked rectangle alone. -/
theorem tracked_of_runSinks {s t : State} {boxes : List TrackedBox} {calls : List SinkCall} (hfb : s.fb.wf = true)
    (hs : s.dirtyPlain = true) (hboxes : ∀ b ∈ boxes, EmptyOrPlain b)
    (hin : ∀ c ∈ calls, ∀ u v, c.covers u v = true → ∃ b ∈ boxes, BoxHolds b u v)
    (h : runSinks calls (s.markBoxes boxes) = .ok t) : Tracked s t := by
  obtain ⟨hplain, hholds⟩ := State.markBoxes_tracks hs hboxes
  obtain ⟨hmfb, -⟩ := s.markBoxes_keeps boxes
  have hparams := s.markBoxes_params boxes
  obtain ⟨hw, hh⟩ := hparams.display
  obtain ⟨-, hdirty⟩ := runSinks_ok h
  refine ⟨State.dirtyPlain_of_dirty hdirty hplain, fun u v hu hv hne => hdirty ▸ hholds u v (.inr ?_)⟩
  have hpixel := pixelAt_of_runSinks (hmfb.symm ▸ hfb) h (u := u) (v := v) (hw ▸ hu) (hh ▸ hv)
  rw [hparams.pixelAt hmfb] at hpixel
  have hcovered : multiplicity calls u v ≠ 0 := fun h0 => hne (by rw [hpixel, h0, blendBit_zero])
  obtain ⟨c, hc, hcov⟩ := List.countP_pos_iff.mp (Nat.pos_of_ne_zero hcovered)
  exact hin c hc u v hcov

/-- A shape command that raises no fault has legal operands, and its sink calls do not fault. -/
theorem shape_completes {s t : State} {i : Instr} {calls : List SinkCall} (hshape : shapeCalls s i = some calls)
    (h : exec i s = .next t) (hf : t.fault = false) : ∃ u, runSinks calls (shapeMarked s i) = .ok u ∧
      t = (u.setCursor (shapeCursor s i).1 (shapeCursor s i).2).advance i.length := by
  have hlegal : i.legalOperands = true := by
    cases i with
    | corner cx cy r m =>
      obtain ⟨-, -, hreserved, -⟩ := reservedOperandsRaiseIllegalOperand s
      by_contra hm
      simp only [Instr.legalOperands, decide_eq_true_eq, not_lt] at hm
      rw [hreserved cx cy r m hm] at h
      cases h
      cases hf
    | setmode | setfont => cases hshape
    | _ => rfl
  rw [exec_shape hshape hlegal] at h
  obtain ⟨u', hmap, rfl⟩ := s.finish_completes _ _ t h hf
  cases hrun : runSinks calls (shapeMarked s i) with
  | error k => rw [hrun] at hmap; cases hmap
  | ok u => rw [hrun] at hmap; cases hmap; exact ⟨u, rfl, rfl⟩

theorem tracked_of_shape {s u : State} {i : Instr} {calls : List SinkCall} (hfb : s.fb.wf = true)
    (hs : s.dirtyPlain = true) (hboxes : ∀ b ∈ declaredBoxes s i, EmptyOrPlain b)
    (hshape : shapeCalls s i = some calls) (h : runSinks calls (shapeMarked s i) = .ok u) : Tracked s u := by
  rw [shapeMarked_eq_markBoxes (by simp [hshape])] at h
  obtain ⟨hdom, -⟩ := runSinks_ok h
  obtain ⟨-, hmdom⟩ := s.markBoxes_keeps (declaredBoxes s i)
  rw [hmdom] at hdom
  exact tracked_of_runSinks hfb hs hboxes (fun c hc u v => shapeCalls_inside hshape hboxes hdom hc) h

/-- Drawing a glyph modifies pixels of its render box alone (R124). -/
theorem tracked_of_drawGlyph {s t : State} {g : Glyph} (hfb : s.fb.wf = true) (hs : s.dirtyPlain = true)
    (hw : g.width < 256) (hh : g.height < 256)
    (hbox : EmptyOrPlain ((s.glyphOrigin g).1, (s.glyphOrigin g).2, BitVec.ofNat 8 g.width, BitVec.ofNat 8 g.height))
    (h : drawGlyph g s = .ok t) : Tracked s t := by
  rw [drawGlyph_eq_bind] at h
  obtain ⟨u, hblit, hu⟩ := bind_eq_ok h
  cases hu
  obtain ⟨drawn, hdrawn, hrun⟩ := blitCells_eq_runSinks hblit
  have hmark : s.markDirty (s.glyphOrigin g).1.int (s.glyphOrigin g).2.int g.width g.height =
      s.markBoxes [((s.glyphOrigin g).1, (s.glyphOrigin g).2, BitVec.ofNat 8 g.width, BitVec.ofNat 8 g.height)] := by
    rw [State.markDirty, wrap8_int, wrap8_int]
    rfl
  rw [hmark] at hrun
  have htracked : Tracked s u := by
    refine tracked_of_runSinks hfb hs (List.forall_mem_singleton.mpr hbox) (fun c hc p q hcov => ?_) hrun
    obtain ⟨cr, hcr, rfl⟩ := List.mem_map.mp hc
    obtain ⟨hcol, hrow⟩ := mem_boxCells (hdrawn cr hcr)
    refine ⟨_, List.mem_singleton_self _, SinkCall.within.boxHolds ?_ (wrap8_int _) (wrap8_int _) hbox hcov⟩
    simp only [SinkCall.within, BitVec.toNat_ofNat]
    omega
  exact htracked.setCursor _ _

theorem tracked_of_drawChar {s t : State} {code : Byte} (hfb : s.fb.wf = true) (hs : s.dirtyPlain = true)
    (hboxes : ∀ b ∈ declaredBoxes s (.drawchar code), EmptyOrPlain b) (h : drawChar code s = .ok t) : Tracked s t := by
  simp only [declaredBoxes] at hboxes
  unfold drawChar at h
  split at h
  · rename_i g hg
    obtain ⟨hw, hh⟩ := State.glyph_sizes hg
    rw [hg] at hboxes
    exact tracked_of_drawGlyph hfb hs hw hh (hboxes _ (List.mem_singleton_self _)) h
  · cases h
    exact tracked_of_fb ⟨rfl, rfl, rfl, rfl, rfl⟩ rfl hs
  · cases h

/-- FLUSH leaves the rectangle as it was, or empty, and `FB` as it was (R84, R86). -/
theorem tracked_flushEffect {s : State} (hs : s.dirtyPlain = true) : Tracked s (flushEffect s) := by
  obtain ⟨-, -, -, hparams⟩ := (flushEffect_written s).keeps
  have hfb : (flushEffect s).fb = s.fb := by
    rw [← State.untracked_fb (flushEffect s), untracked_flushEffect, State.untracked_fb]
  refine tracked_of_fb hparams hfb ?_
  rcases flushEffect_cases s with ⟨-, he⟩ | ⟨-, -, hdirty, -⟩
  · exact (State.dirtyPlain_iff _).mpr (.inl he)
  · exact State.dirtyPlain_of_dirty hdirty hs

/-- The whole display is a plain box, or empty. -/
theorem State.wholeDisplay_plain (s : State) : (s.setDirty 0 0 s.width (BitVec.ofNat 8 s.h)).dirtyPlain = true := by
  have hw := s.width.isLt
  have hh := s.h_le
  simp only [State.dirtyPlain, State.setDirty_dx, State.setDirty_dy, State.setDirty_dw, State.setDirty_dh, plainBox,
    BitVec.toNat_ofNat, Bool.or_eq_true, Bool.and_eq_true, decide_eq_true_eq]
  exact .inr ⟨by simp; omega, by simp; omega⟩

theorem State.wholeDisplay_holds (s : State) {u v : Nat} (hu : u < s.w) (hv : v < s.h) :
    BoxHolds (0, 0, s.width, BitVec.ofNat 8 s.h) u v := by
  have hh := s.h_le
  have hw : s.w = s.width.toNat := rfl
  rw [BoxHolds, inBox_iff]
  simp only [BitVec.toNat_ofNat, BitVec.ofNat_eq_ofNat]
  omega

end Sys2Proof.Machine
end

section
/-! PROOFS. The invariant of `40_dirty.md`. -/

namespace Sys2Proof.Machine

/-- Settles O58: a drawing command covers pixels of the boxes it declares, which it marks first; CLEAR marks the whole
display; the others leave `FB` as it was. -/
theorem trackerCoversEveryModifiedPixel : Obligations.TrackerCoversEveryModifiedPixel := by
  intro i s t hfb hs hboxes hstr h hf
  change Tracked s t
  cases hshape : shapeCalls s i with
  | some calls =>
    obtain ⟨u, hu, rfl⟩ := shape_completes hshape h hf
    exact ((tracked_of_shape hfb hs hboxes hshape hu).setCursor _ _).advance _
  | none =>
    cases i with
    | clear =>
      obtain rfl := Host.Outcome.next.inj h
      exact ⟨s.wholeDisplay_plain, fun u v hu hv _ => s.wholeDisplay_holds hu hv⟩
    | markdirty l t w h' =>
      obtain rfl := Host.Outcome.next.inj h
      rw [State.markDirty_int]
      exact (tracked_of_runSinks (calls := []) hfb hs hboxes (fun c hc => nomatch hc) rfl).advance 5
    | invalidate =>
      obtain rfl := Host.Outcome.next.inj h
      exact tracked_of_fb ⟨rfl, rfl, rfl, rfl, rfl⟩ rfl s.wholeDisplay_plain
    | validate =>
      obtain rfl := Host.Outcome.next.inj h
      exact tracked_of_fb ⟨rfl, rfl, rfl, rfl, rfl⟩ rfl rfl
    | flush =>
      obtain rfl := Host.Outcome.next.inj h
      exact (tracked_flushEffect hs).advance 1
    | drawchar c =>
      obtain ⟨u, hu, rfl⟩ := s.finish_completes _ _ t h hf
      exact (tracked_of_drawChar hfb hs hboxes hu).advance 2
    | drawstr cs => exact absurd rfl (hstr cs)
    | moveto | setmode | setfont | widthc | widths =>
      obtain ⟨u, hu, rfl⟩ := written_of_exec h hf
      obtain ⟨-, -, -, hparams⟩ := hu.keeps
      have hsame : u.fb = s.fb := by_contra fun hne => by simpa [shapeCalls] using hu.fb_ne hne
      have hdirty : u.dirty = s.dirty := by_contra fun hne => by simpa [shapeCalls] using hu.dirty_ne hne
      exact (tracked_of_fb hparams hsame (State.dirtyPlain_of_dirty hdirty hs)).advance _
    | _ => cases hshape

end Sys2Proof.Machine
end

section
/-! SUPPORT. What a shape command leaves: its sink calls decide whether it faults and every bit it draws (R87). -/

namespace Sys2Proof.Machine

theorem SameParams.inDomain {s t : State} (h : SameParams s t) : SinkCall.inDomain t = SinkCall.inDomain s := by
  obtain ⟨hw, hh⟩ := h.display
  funext c
  cases c <;> simp only [SinkCall.inDomain, hw, hh]

theorem SameParams.writes {s t : State} (h : SameParams s t) : SinkCall.writes t = SinkCall.writes s := by
  obtain ⟨hw, -⟩ := h.display
  have hpages : t.pages = s.pages := congrArg Height.pages h.height
  funext c
  cases c <;> simp only [SinkCall.writes, pixelWrites, hrunWrites, vrunWrites, State.fbIndex, hw, hpages]

/-- A command whose effect is an error has raised that fault (R134). -/
theorem raisesFault_of_error {o : Host.Outcome State Fault Refusal} {s : State} {len : Nat} {k : FaultCode}
    (h : o = s.finish len (.error k)) : RaisesFault o s k :=
  ⟨s.takeFault k, h, s.takeFault_fault k, s.takeFault_fcode k, s.takeFault_cp k⟩

section
variable {s : State} {i : Instr} {calls : List SinkCall} (hshape : shapeCalls s i = some calls)
  (hlegal : i.legalOperands = true)
include hshape hlegal

/-- With every sink call in its domain a shape command completes: boxes marked, masks applied, cursor moved. -/
theorem exec_shape_inside (hdom : calls.all (SinkCall.inDomain s) = true) :
    ∃ x y w h, shapeMarked s i = s.setDirty x y w h ∧
      exec i s = .next ((((s.setDirty x y w h).setFb
        (applyMasks s.mode (calls.flatMap (SinkCall.writes s)) s.fb)).setCursor
          (shapeCursor s i).1 (shapeCursor s i).2).advance i.length) := by
  have hmark := (shapeMarked_eq_markBoxes (s := s) (i := i) (by simp [hshape])).trans (s.markBoxes_eq_setDirty _)
  refine ⟨_, _, _, _, hmark, ?_⟩
  have hparams : ∀ x y w h, SameParams s (s.setDirty x y w h) := fun _ _ _ _ => ⟨rfl, rfl, rfl, rfl, rfl⟩
  rw [exec_shape hshape hlegal, hmark, runSinks_eq, (hparams _ _ _ _).inDomain, (hparams _ _ _ _).writes, if_pos hdom]
  rfl

/-- With a sink call outside its domain a shape command takes `SinkRange`. -/
theorem exec_shape_outside (hdom : calls.all (SinkCall.inDomain s) = false) :
    RaisesFault (exec i s) s .sinkRange := by
  have hmark := shapeMarked_eq_markBoxes (s := s) (i := i) (by simp [hshape])
  refine raisesFault_of_error (len := i.length) ?_
  rw [exec_shape hshape hlegal, hmark, runSinks_eq, (s.markBoxes_params _).inDomain, if_neg (by simp [hdom])]
  rfl

end

/-- A byte the sink calls do not store to reads as before. -/
theorem applyMasks_read_of_not_stored {s : State} {calls : List SinkCall} {a : Nat}
    (ha : a ∉ storedAddresses s calls) :
    (applyMasks s.mode (calls.flatMap (SinkCall.writes s)) s.fb).read a = s.fb.read a := by
  refine applyMasks_read_other _ _ _ _ fun im him heq => ha ?_
  obtain ⟨c, hc, him⟩ := List.mem_flatMap.mp him
  exact List.mem_flatMap.mpr ⟨c, hc, List.mem_map.mpr ⟨im, him, heq⟩⟩

/-- The masks of sink calls in their domain leave each pixel as its multiplicity says (R48). -/
theorem pixelAt_setFb_of_calls {s : State} {calls : List SinkCall} (hfb : s.fb.wf = true)
    (hdom : calls.all (SinkCall.inDomain s) = true) {u v : Nat} (hu : u < s.w) (hv : v < s.h) :
    (s.setFb (applyMasks s.mode (calls.flatMap (SinkCall.writes s)) s.fb)).pixelAt u v =
      blendBit s.mode (s.pixelAt u v) (multiplicity calls u v) :=
  pixelAt_of_runSinks hfb ((runSinks_eq calls s).trans (if_pos hdom)) hu hv

end Sys2Proof.Machine
end

section
/-! PROOFS. What `41_line_rect.md` says of all shape commands. -/

namespace Sys2Proof.Machine

/-- Settles O34: the effect of a shape command is its boxes and its sink calls. -/
theorem shapeCommandsDrawTheirCalls : Obligations.ShapeCommandsDrawTheirCalls := by
  intro s i calls hfb hshape hlegal
  refine ⟨fun hdom => ?_, exec_shape_outside hshape hlegal⟩
  obtain ⟨x, y, w, h, hmark, hexec⟩ := exec_shape_inside hshape hlegal hdom
  exact ⟨_, hexec, rfl, (congrArg State.dirty hmark).symm, fun a ha => applyMasks_read_of_not_stored ha,
    fun u v hu hv => pixelAt_setFb_of_calls hfb hdom hu hv⟩

/-- Settles O35: a shape of zero size has no effect. -/
theorem zeroSizedShapesDoNothing : Obligations.ZeroSizedShapesDoNothing := by
  intro s x y w h c hz
  have hnone : ∀ calls, drawShape x y w h calls s = .ok s := fun _ => if_pos hz
  exact ⟨congrArg (s.finish 5) (hnone _), congrArg (s.finish 5) (hnone _), congrArg (s.finish 5) (hnone _),
    congrArg (s.finish 5) (hnone _), congrArg (s.finish 6) (hnone _), congrArg (s.finish 6) (hnone _)⟩

end Sys2Proof.Machine
end

section
/-! SUPPORT. Sink calls whose exact arguments are coordinates `0 .. 255`: their domain and what they cover
(R41, R42). -/

namespace Sys2Proof.Machine

/-- A call within a rectangle of the display is in its domain. -/
theorem SinkCall.within.inDomain {s : State} {c : SinkCall} {x y a b : Int} (h : c.within x y a b) (hx : 0 ≤ x)
    (hxa : x + a < s.w) (hy : 0 ≤ y) (hyb : y + b < s.h) : c.inDomain s = true := by
  have hw := s.w_le
  have hh := s.h_le
  cases c <;> simp only [SinkCall.within] at h <;>
    simp only [SinkCall.inDomain, wrap8_toNat, Bool.and_eq_true, decide_eq_true_eq] <;> omega

/-- A call within a rectangle of columns and rows `0 .. 255` covers pixels of the rectangle alone. -/
theorem SinkCall.within.mem_of_covers {c : SinkCall} {x y a b : Int} (h : c.within x y a b) (hx : 0 ≤ x)
    (hxa : x + a ≤ 255) (hy : 0 ≤ y) (hyb : y + b ≤ 255) {u v : Nat} (hcov : c.covers u v = true) :
    (x ≤ u ∧ u ≤ x + a) ∧ y ≤ v ∧ v ≤ y + b := by
  cases c <;> simp only [SinkCall.within] at h <;>
    simp only [SinkCall.covers, wrap8_toNat, Bool.and_eq_true, beq_iff_eq, decide_eq_true_eq] at hcov <;> omega

/-- Calls within a rectangle of columns and rows `0 .. 255` cover no pixel outside it. -/
theorem multiplicity_eq_zero_of_within {calls : List SinkCall} {x y a b : Int} (h : ∀ c ∈ calls, c.within x y a b)
    (hx : 0 ≤ x) (hxa : x + a ≤ 255) (hy : 0 ≤ y) (hyb : y + b ≤ 255) {u v : Nat}
    (hout : ¬((x ≤ u ∧ u ≤ x + a) ∧ y ≤ v ∧ v ≤ y + b)) : multiplicity calls u v = 0 :=
  List.countP_eq_zero.mpr fun c hc hcov => hout ((h c hc).mem_of_covers hx hxa hy hyb hcov)

/-- Calls within a rectangle of the display are all in their domain. -/
theorem all_inDomain_of_within {s : State} {calls : List SinkCall} {x y a b : Int} (h : ∀ c ∈ calls, c.within x y a b)
    (hx : 0 ≤ x) (hxa : x + a < s.w) (hy : 0 ≤ y) (hyb : y + b < s.h) : calls.all (SinkCall.inDomain s) = true :=
  List.all_eq_true.mpr fun c hc => (h c hc).inDomain hx hxa hy hyb

section
variable {x y : Int} (hx : 0 ≤ x ∧ x ≤ 255) (hy : 0 ≤ y ∧ y ≤ 255) (u v : Nat)
include hx hy

theorem pixel_covers_int_iff : (SinkCall.pixel x y).covers u v = true ↔ x = u ∧ y = v := by
  simp only [SinkCall.covers, wrap8_toNat, Bool.and_eq_true, beq_iff_eq]
  omega

theorem hrun_covers_int_iff {r : Int} (hr : 0 ≤ r ∧ r ≤ 255) :
    (SinkCall.hrun x r y).covers u v = true ↔ (x ≤ u ∧ u ≤ r) ∧ y = v := by
  simp only [SinkCall.covers, wrap8_toNat, Bool.and_eq_true, beq_iff_eq, decide_eq_true_eq]
  omega

theorem vrun_covers_int_iff {b : Int} (hb : 0 ≤ b ∧ b ≤ 255) :
    (SinkCall.vrun x y b).covers u v = true ↔ x = u ∧ y ≤ v ∧ v ≤ b := by
  simp only [SinkCall.covers, wrap8_toNat, Bool.and_eq_true, beq_iff_eq, decide_eq_true_eq]
  omega

end

theorem multiplicity_cons (c : SinkCall) (rest : List SinkCall) (u v : Nat) :
    multiplicity (c :: rest) u v = multiplicity rest u v + if c.covers u v then 1 else 0 :=
  List.countP_cons

@[simp] theorem multiplicity_nil (u v : Nat) : multiplicity [] u v = 0 := rfl

/-- A pixel covered once is drawn in the current mode (R43). -/
theorem blendBit_one (mode : DrawMode) (old : Bool) :
    blendBit mode old 1 = (match mode with | .set => true | .clear => false | .invert => !old) := by
  cases mode <;> simp [blendBit]

/-- A pixel covered once where `P` holds, and else not at all (R43, R48). -/
theorem blendBit_once (mode : DrawMode) (old : Bool) {n : Nat} {P : Prop} [Decidable P] (hn : n = if P then 1 else 0) :
    blendBit mode old n =
      if P then (match mode with | .set => true | .clear => false | .invert => !old) else old := by
  subst hn
  split
  · exact blendBit_one mode old
  · exact blendBit_zero mode old

end Sys2Proof.Machine
end

section
/-! SUPPORT. Rectangles: what PAINTRECT and FRAMERECT cover, and that they leave their domain off the display
(R96 to R99). -/

namespace Sys2Proof.Machine

theorem paintBody_eq_map (x y : Int) (w h : Nat) :
    paintBody x y w h = (List.range' 0 w).map fun i : Nat => .vrun (x + i) y (y + h - 1) := by
  simp only [paintBody, bind_pure_comp, List.map_eq_map, List.map_map, List.range_eq_range']
  rfl

/-- The columns of a box are its pixels, each once (R96). -/
theorem paintBody_multiplicity {x y w h : Nat} (hh : 1 ≤ h) (hx : x + w ≤ 256) (hy : y + h ≤ 256) (u v : Nat) :
    multiplicity (paintBody x y w h) u v = if inBox x y w h u v then 1 else 0 := by
  have hcolumn : ∀ i ∈ List.range' 0 w, (SinkCall.vrun (x + i) y (y + h - 1)).covers u v = true ↔
      i = u - x ∧ x ≤ u ∧ y ≤ v ∧ v < y + h := by
    intro i hi
    rw [List.mem_range'_1] at hi
    rw [vrun_covers_int_iff (by omega) (by omega) u v (by omega)]
    omega
  rw [paintBody_eq_map, multiplicity, List.countP_map]
  refine (countP_range'_of_iff hcolumn).trans (if_congr ?_ rfl rfl)
  rw [inBox_iff]
  omega

theorem onBorder_iff {x y w h u v : Nat} : onBorder x y w h u v = true ↔
    inBox x y w h u v = true ∧ (u = x ∨ u + 1 = x + w ∨ v = y ∨ v + 1 = y + h) := by
  simp [onBorder, or_assoc]

/-- The border of a box, its corners not drawn twice (R98). -/
theorem frameBody_multiplicity {x y w h : Nat} (hw : 1 ≤ w) (hh : 1 ≤ h) (hx : x + w ≤ 256) (hy : y + h ≤ 256)
    (u v : Nat) : multiplicity (frameBody x y w h) u v = if onBorder x y w h u v then 1 else 0 := by
  simp only [onBorder_iff, inBox_iff]
  unfold frameBody
  split
  · rw [paintBody_multiplicity hh hx hy]
    refine if_congr ?_ rfl rfl
    rw [inBox_iff]
    omega
  · have hleft := vrun_covers_int_iff (x := x) (y := y) (by omega) (by omega) u v (b := y + h - 1) (by omega)
    have hright := vrun_covers_int_iff (x := x + w - 1) (y := y) (by omega) (by omega) u v (b := y + h - 1) (by omega)
    split
    · have htop := hrun_covers_int_iff (x := x + 1) (y := y) (by omega) (by omega) u v (r := x + w - 1 - 1) (by omega)
      have hbottom := hrun_covers_int_iff (x := x + 1) (y := y + h - 1) (by omega) (by omega) u v
        (r := x + w - 1 - 1) (by omega)
      simp only [multiplicity_cons, multiplicity_nil, hleft, hright, htop, hbottom]
      split_ifs <;> omega
    · simp only [multiplicity_cons, multiplicity_nil, hleft, hright]
      split_ifs <;> omega

/-- A vertical run in its domain has its column and its rows on the display; a run of at most 255 rows that leaves it
is out of its domain even where its lower end wraps (R97). -/
theorem vrun_on_display {s : State} {x : Int} {y h : Nat} (hy : y < 256) (hh : 1 ≤ h) (hh' : h ≤ 255)
    (hd : (SinkCall.vrun x y (y + h - 1)).inDomain s = true) : x % 256 < s.w ∧ y + h ≤ s.h := by
  have hrows := s.h_le
  simp only [SinkCall.inDomain, wrap8_toNat, Bool.and_eq_true, decide_eq_true_eq] at hd
  omega

/-- A painted box whose calls are in their domain lies on the display (R97): else it has a column that does not. -/
theorem paintBody_on_display {s : State} {x y w h : Nat} (hx : x < 256) (hy : y < 256) (hw : 1 ≤ w) (hh : 1 ≤ h)
    (hh' : h ≤ 255) (hd : ∀ c ∈ paintBody x y w h, c.inDomain s = true) : x + w ≤ s.w ∧ y + h ≤ s.h := by
  have hcols := s.w_le
  have hcolumn : ∀ i < w, (x + i : Int) % 256 < s.w ∧ y + h ≤ s.h := fun i hi =>
    vrun_on_display hy hh hh' (hd _ (by
      rw [paintBody_eq_map]
      exact List.mem_map_of_mem (by simpa using hi)))
  refine ⟨?_, (hcolumn 0 hw).2⟩
  by_contra hout
  obtain ⟨hbad, -⟩ := hcolumn (max x s.w - x) (by omega)
  omega

/-- A framed box whose calls are in their domain lies on the display, a right edge that wraps included (R99). -/
theorem frameBody_on_display {s : State} {x y w h : Nat} (hx : x < 256) (hy : y < 256) (hw : 1 ≤ w) (hw' : w ≤ 255)
    (hh : 1 ≤ h) (hh' : h ≤ 255) (hd : ∀ c ∈ frameBody x y w h, c.inDomain s = true) :
    x + w ≤ s.w ∧ y + h ≤ s.h := by
  have hcols := s.w_le
  unfold frameBody at hd
  split at hd
  · exact paintBody_on_display hx hy hw hh hh' hd
  · simp only [List.forall_mem_cons] at hd
    obtain ⟨hleft, hright, hedges⟩ := hd
    obtain ⟨hl, hrows⟩ := vrun_on_display hy hh hh' hleft
    obtain ⟨hr, -⟩ := vrun_on_display hy hh hh' hright
    refine ⟨?_, hrows⟩
    split at hedges
    · have htop := hedges _ List.mem_cons_self
      simp only [SinkCall.inDomain, wrap8_toNat, Bool.and_eq_true, decide_eq_true_eq] at htop
      omega
    · omega

/-- A command that draws a rectangle, on the display: the rectangle is marked and its calls are drawn (R87). -/
theorem rectangle_completes {s : State} {i : Instr} {calls : List SinkCall} {x y w h : Byte} (hfb : s.fb.wf = true)
    (hshape : shapeCalls s i = some (if w = 0 ∨ h = 0 then [] else calls)) (hlegal : i.legalOperands = true)
    (hmark : shapeMarked s i = s.markDirty x.int y.int w.int h.int) (hcursor : shapeCursor s i = (s.curx, s.cury))
    (hne : ¬(w = 0 ∨ h = 0)) (hx : x.toNat + w.toNat ≤ s.w) (hy : y.toNat + h.toNat ≤ s.h)
    (hin : ∀ c ∈ calls, c.within x.toNat y.toNat ((w.toNat : Int) - 1) ((h.toNat : Int) - 1)) :
    ∃ t, exec i s = .next t ∧
      t = { s with dx := t.dx, dy := t.dy, dw := t.dw, dh := t.dh, fb := t.fb,
                   cp := s.cp + BitVec.ofNat 16 i.length } ∧
      t.dirty = (s.markBox x y w h).dirty ∧
      ∀ u v, u < s.w → v < s.h → t.pixelAt u v = blendBit s.mode (s.pixelAt u v) (multiplicity calls u v) := by
  rw [if_neg hne] at hshape
  obtain ⟨hinside, -⟩ := shapeCommandsDrawTheirCalls s i calls hfb hshape hlegal
  obtain ⟨t, hexec, ht, hdirty, -, hpixel⟩ :=
    hinside (all_inDomain_of_within hin (by omega) (by omega) (by omega) (by omega))
  rw [hmark, State.markDirty_int] at hdirty
  rw [hcursor] at ht
  exact ⟨t, hexec, ht, hdirty, hpixel⟩

/-- A command that draws a rectangle faults where one of its calls is out of its domain (R42). -/
theorem rectangle_faults {s : State} {i : Instr} {calls : List SinkCall} {w h : Byte}
    (hshape : shapeCalls s i = some (if w = 0 ∨ h = 0 then [] else calls)) (hlegal : i.legalOperands = true)
    (hne : ¬(w = 0 ∨ h = 0)) (hout : ¬∀ c ∈ calls, c.inDomain s = true) : RaisesFault (exec i s) s .sinkRange := by
  rw [if_neg hne] at hshape
  refine exec_shape_outside hshape hlegal (Bool.eq_false_iff.mpr fun hall => hout (List.all_eq_true.mp hall))

end Sys2Proof.Machine
end

section
/-! PROOFS. PIXEL and the rectangles of `41_line_rect.md`. -/

namespace Sys2Proof.Machine

/-- Settles O36: one sink call, which covers the pixel named. -/
theorem pixelWritesOneBit : Obligations.PixelWritesOneBit := by
  intro s x y rest hfb
  obtain ⟨hinside, houtside⟩ := shapeCommandsDrawTheirCalls s (.pixel x y) _ hfb rfl rfl
  have hdom : [SinkCall.pixel x.int y.int].all (SinkCall.inDomain s) = true ↔ x.toNat < s.w ∧ y.toNat < s.h := by
    simp [SinkCall.inDomain]
  refine ⟨rfl, fun hx hy => ?_, fun hout => houtside (Bool.eq_false_iff.mpr fun hall => ?_)⟩
  · obtain ⟨t, hexec, ht, hdirty, hframe, hpixel⟩ := hinside (hdom.mpr ⟨hx, hy⟩)
    refine ⟨t, hexec, ht, hdirty, fun a ha => hframe a ?_, fun u v hu hv => ?_⟩
    · simpa [storedAddresses, SinkCall.writes, pixelWrites, s.fbIndex_eq x.toNat hy] using ha
    · refine (hpixel u v hu hv).trans (blendBit_once _ _ ?_)
      simp [multiplicity_cons, SinkCall.covers, @eq_comm Nat u, @eq_comm Nat v]
  · have := hdom.mp hall
    omega

/-- Settles O40: the columns of the box, each pixel once; off the display one of them leaves it. -/
theorem paintrectFillsItsBox : Obligations.PaintrectFillsItsBox := by
  intro s x y w h rest hfb
  have hcols := s.w_le
  have hrows := s.h_le
  refine ⟨rfl, fun hz => ?_, fun hw hh hx hy => ?_, fun hw hh hout => ?_⟩
  · obtain ⟨-, hzero, -⟩ := zeroSizedShapesDoNothing s x y w h 0 hz
    exact hzero
  · have hne := not_or.mpr ⟨hw, hh⟩
    obtain ⟨hw1, hh1⟩ := (nonempty_iff w h).mp hne
    obtain ⟨t, hexec, ht, hdirty, hpixel⟩ := rectangle_completes (i := .paintrect x y w h) hfb rfl rfl rfl rfl hne hx hy
      fun c hc => paintBody_within hh1 hc
    exact ⟨t, hexec, ht, hdirty, fun u v hu hv => (hpixel u v hu hv).trans
      (blendBit_once _ _ (paintBody_multiplicity hh1 (by omega) (by omega) u v))⟩
  · have hne := not_or.mpr ⟨hw, hh⟩
    obtain ⟨hw1, hh1⟩ := (nonempty_iff w h).mp hne
    refine rectangle_faults (i := .paintrect x y w h) rfl rfl hne fun hall => ?_
    obtain ⟨hx, hy⟩ := paintBody_on_display x.isLt y.isLt hw1 hh1 (Nat.le_of_lt_succ h.isLt) hall
    omega

/-- Settles O41: two columns and what the two rows have between them, each pixel once; off the display one of the four
edges leaves it. -/
theorem framerectDrawsItsBorder : Obligations.FramerectDrawsItsBorder := by
  intro s x y w h rest hfb
  have hcols := s.w_le
  have hrows := s.h_le
  refine ⟨rfl, fun hz => ?_, fun hw hh hx hy => ?_, fun hw hh hout => ?_⟩
  · obtain ⟨hzero, -⟩ := zeroSizedShapesDoNothing s x y w h 0 hz
    exact hzero
  · have hne := not_or.mpr ⟨hw, hh⟩
    obtain ⟨hw1, hh1⟩ := (nonempty_iff w h).mp hne
    obtain ⟨t, hexec, ht, hdirty, hpixel⟩ := rectangle_completes (i := .framerect x y w h) hfb rfl rfl rfl rfl hne hx hy
      fun c hc => frameBody_within hw1 hh1 hc
    exact ⟨t, hexec, ht, hdirty, fun u v hu hv => (hpixel u v hu hv).trans
      (blendBit_once _ _ (frameBody_multiplicity hw1 hh1 (by omega) (by omega) u v))⟩
  · have hne := not_or.mpr ⟨hw, hh⟩
    obtain ⟨hw1, hh1⟩ := (nonempty_iff w h).mp hne
    refine rectangle_faults (i := .framerect x y w h) rfl rfl hne fun hall => ?_
    obtain ⟨hx, hy⟩ := frameBody_on_display x.isLt y.isLt hw1 (Nat.le_of_lt_succ w.isLt) hh1
      (Nat.le_of_lt_succ h.isLt) hall
    omega

end Sys2Proof.Machine
end

section
/-! SUPPORT. The line walk (R93) step by step: it is a path from the cursor to the target, and ends by its own test
(R94). -/

namespace Sys2Proof.Machine

/-- The head of the walk's loop after `i` x steps and `j` y steps: the error term in closed form, and its bounds along
the longer axis, which steps in every iteration. -/
structure LineAt (dx dy i j err : Int) : Prop where
  col : i ≤ dx
  row : j ≤ dy
  err_eq : err = (j + 1) * dx - (i + 1) * dy
  flat : dy ≤ dx → -dy < 2 * err
  steep : dx ≤ dy → 2 * err < dx

/-- From `i` and `j` steps to `i'` and `j'`: at most one more on each axis, and one on the longer. -/
structure LineMove (dx dy i j i' j' : Int) : Prop where
  x : i' = i ∨ i' = i + 1
  y : j' = j ∨ j' = j + 1
  flat : dy ≤ dx → i' = i + 1
  steep : dx ≤ dy → j' = j + 1

theorem lineStart_at {dx dy : Int} (hdx : 0 < dx) (hdy : 0 < dy) : LineAt dx dy 0 0 (dx - dy) :=
  ⟨hdx.le, hdy.le, by ring, fun _ => by omega, fun _ => by omega⟩

/-- In its last column the walk makes no x step before its last row. -/
theorem LineAt.col_lt {dx dy i j err : Int} (h : LineAt dx dy i j err) (hdx : 0 < dx) (hdy : 0 < dy)
    (hne : ¬(i = dx ∧ j = dy)) (hstep : 2 * err > -dy) : i < dx := by
  obtain ⟨hcol, hrow, rfl, -, -⟩ := h
  refine lt_of_le_of_ne hcol fun hi => hne ⟨hi, ?_⟩
  subst hi
  have : dy - 1 < j := by nlinarith
  omega

/-- In its last row the walk makes no y step before its last column. -/
theorem LineAt.row_lt {dx dy i j err : Int} (h : LineAt dx dy i j err) (hdx : 0 < dx) (hdy : 0 < dy)
    (hne : ¬(i = dx ∧ j = dy)) (hstep : 2 * err < dx) : j < dy := by
  obtain ⟨hcol, hrow, rfl, -, -⟩ := h
  refine lt_of_le_of_ne hrow fun hj => hne ⟨?_, hj⟩
  subst hj
  have : dx - 1 < i := by nlinarith
  omega

section
variable {dx dy sx sy xs ys i j err : Int} (hsx : sx = 1 ∨ sx = -1) (hsy : sy = 1 ∨ sy = -1) (hdx : 0 < dx)
  (hdy : 0 < dy) (h : LineAt dx dy i j err)
include hsx hsy hdx hdy h

/-- One iteration before the target: a call, and the loop's head again after a step on the longer axis at least. -/
theorem lineWalk_step (hne : ¬(i = dx ∧ j = dy)) : ∃ i' j' err', LineAt dx dy i' j' err' ∧ LineMove dx dy i j i' j' ∧
    ∀ fuel, lineWalk dx dy sx sy (xs + sx * dx) (ys + sy * dy) (fuel + 1) (xs + sx * i) (ys + sy * j) err =
      .pixel (xs + sx * i) (ys + sy * j) ::
        lineWalk dx dy sx sy (xs + sx * dx) (ys + sy * dy) fuel (xs + sx * i') (ys + sy * j') err' := by
  have hcol := h.col_lt hdx hdy hne
  have hrow := h.row_lt hdx hdy hne
  obtain ⟨hi, hj, herr, hflat, hsteep⟩ := h
  refine ⟨if 2 * err > -dy then i + 1 else i, if 2 * err < dx then j + 1 else j,
    (if 2 * err > -dy then err - dy else err) + (if 2 * err < dx then dx else 0), ⟨?_, ?_, ?_, ?_, ?_⟩,
    ⟨?_, ?_, fun hlong => if_pos (hflat hlong), fun hlong => if_pos (hsteep hlong)⟩, fun fuel => ?_⟩
  · split <;> omega
  · split <;> omega
  · subst herr; split <;> split <;> ring
  · intro hlong; split <;> split <;> omega
  · intro hlong; split <;> split <;> omega
  · split <;> omega
  · split <;> omega
  · rw [lineWalk, if_neg (by simpa [signed_distance_inj hsx] using fun hs => (hcol hs).ne),
      if_neg (by simpa [signed_distance_inj hsy] using fun hs => (hrow hs).ne)]
    simp only [decide_eq_true_eq]
    congr 2 <;> split <;> ring

end

theorem LineMove.progress {dx dy i j i' j' : Int} (h : LineMove dx dy i j i' j') : i + j < i' + j' := by
  obtain ⟨hx, hy, hflat, hsteep⟩ := h
  omega

/-- At the target a step is decided on the longer axis, and the walk ends there. -/
theorem lineWalk_target {dx dy err : Int} (sx sy xs ys : Int) (h : LineAt dx dy dx dy err) (fuel : Nat) :
    lineWalk dx dy sx sy (xs + sx * dx) (ys + sy * dy) (fuel + 1) (xs + sx * dx) (ys + sy * dy) err =
      [.pixel (xs + sx * dx) (ys + sy * dy)] := by
  rw [lineWalk]
  rcases le_total dy dx with hlong | hlong
  · have hstep := h.flat hlong
    simp [hstep]
  · have hstep := h.steep hlong
    simp [hstep]

/-- The calls of a walk from `i` x steps and `j` y steps to the target. -/
inductive LinePath (dx dy sx sy xs ys : Int) : Int → Int → List SinkCall → Prop
  | stop : LinePath dx dy sx sy xs ys dx dy [.pixel (xs + sx * dx) (ys + sy * dy)]
  | move {i j i' j' : Int} {rest : List SinkCall} (hmove : LineMove dx dy i j i' j')
      (hrest : LinePath dx dy sx sy xs ys i' j' rest) :
      LinePath dx dy sx sy xs ys i j (.pixel (xs + sx * i) (ys + sy * j) :: rest)

section
variable {dx dy sx sy xs ys : Int} (hsx : sx = 1 ∨ sx = -1) (hsy : sy = 1 ∨ sy = -1) (hdx : 0 < dx) (hdy : 0 < dy)
include hsx hsy hdx hdy

/-- With an iteration for every step still to make, the walk reaches its target (R94). -/
theorem lineWalk_path {fuel : Nat} {i j err : Int} (h : LineAt dx dy i j err) (hfuel : dx + dy + 1 - i - j ≤ fuel) :
    LinePath dx dy sx sy xs ys i j
      (lineWalk dx dy sx sy (xs + sx * dx) (ys + sy * dy) fuel (xs + sx * i) (ys + sy * j) err) := by
  induction fuel generalizing i j err with
  | zero =>
    have hcol := h.col
    have hrow := h.row
    omega
  | succ n ih =>
    by_cases hend : i = dx ∧ j = dy
    · obtain ⟨rfl, rfl⟩ := hend
      rw [lineWalk_target sx sy xs ys h]
      exact .stop
    · obtain ⟨i', j', err', hat, hmove, hwalk⟩ := lineWalk_step hsx hsy hdx hdy h hend
      rw [hwalk]
      have hprogress := hmove.progress
      exact .move hmove (ih hat (by omega))

/-- Further iterations add nothing to a walk that has reached its target (R94, R153). -/
theorem lineWalk_fuel (fuel k : Nat) {i j err : Int} (h : LineAt dx dy i j err) (hfuel : dx + dy + 1 - i - j ≤ fuel) :
    lineWalk dx dy sx sy (xs + sx * dx) (ys + sy * dy) (fuel + k) (xs + sx * i) (ys + sy * j) err =
      lineWalk dx dy sx sy (xs + sx * dx) (ys + sy * dy) fuel (xs + sx * i) (ys + sy * j) err := by
  induction fuel generalizing i j err with
  | zero =>
    have hcol := h.col
    have hrow := h.row
    omega
  | succ n ih =>
    rw [Nat.succ_add]
    by_cases hend : i = dx ∧ j = dy
    · obtain ⟨rfl, rfl⟩ := hend
      rw [lineWalk_target sx sy xs ys h, lineWalk_target sx sy xs ys h]
    · obtain ⟨i', j', err', hat, hmove, hwalk⟩ := lineWalk_step hsx hsy hdx hdy h hend
      have hprogress := hmove.progress
      rw [hwalk, hwalk, ih hat (by omega)]

end

/-! ## What a path is like -/

/-- How far a call is along the path, both axes together. -/
def SinkCall.progress (sx sy : Int) : SinkCall → Int
  | .pixel u v => sx * u + sy * v
  | _ => 0

/-- The call after a pixel is another pixel: at most one step on each axis, in the axis' own direction. -/
def NextPixel (sx sy : Int) (c c' : SinkCall) : Prop :=
  (∃ u v u' v', c = .pixel u v ∧ c' = .pixel u' v' ∧ (u' = u ∨ u' = u + sx) ∧ (v' = v ∨ v' = v + sy)) ∧
    c.progress sx sy < c'.progress sx sy

section
variable {dx dy sx sy xs ys i j : Int} {calls : List SinkCall} (h : LinePath dx dy sx sy xs ys i j calls)
include h

theorem LinePath.head? : calls.head? = some (.pixel (xs + sx * i) (ys + sy * j)) := by
  cases h <;> rfl

theorem LinePath.getLast? : calls.getLast? = some (.pixel (xs + sx * dx) (ys + sy * dy)) := by
  induction h with
  | stop => rfl
  | move _ _ ih => rw [List.getLast?_cons, ih]; rfl

/-- A call per step on the longer axis, and one more (R94 (a)). -/
theorem LinePath.length :
    (dy ≤ dx → (calls.length : Int) = dx - i + 1) ∧ (dx ≤ dy → (calls.length : Int) = dy - j + 1) := by
  induction h with
  | stop => simp
  | move hmove _ ih =>
    have hflat := hmove.flat
    have hsteep := hmove.steep
    rw [List.length_cons]
    omega

theorem LinePath.pixels : ∀ c ∈ calls, ∃ u v, c = .pixel u v := by
  induction h with
  | stop => simp
  | move _ _ ih => exact List.forall_mem_cons.mpr ⟨⟨_, _, rfl⟩, ih⟩

theorem LinePath.chain (hsx : sx = 1 ∨ sx = -1) (hsy : sy = 1 ∨ sy = -1) : calls.IsChain (NextPixel sx sy) := by
  induction h with
  | stop => exact .singleton _
  | move hmove hrest ih =>
    refine List.isChain_cons.mpr ⟨fun c hc => ?_, ih⟩
    obtain rfl : _ = c := Option.some.inj (hrest.head?.symm.trans hc)
    have hprogress := hmove.progress
    refine ⟨⟨_, _, _, _, rfl, rfl, hmove.x.imp ?_ ?_, hmove.y.imp ?_ ?_⟩, ?_⟩
    · rintro rfl; rfl
    · rintro rfl; ring
    · rintro rfl; rfl
    · rintro rfl; ring
    · rcases hsx with rfl | rfl <;> rcases hsy with rfl | rfl <;> simp only [SinkCall.progress] <;> omega

/-- The path advances with every call, so that no call comes twice (R94 (c)). -/
theorem LinePath.nodup (hsx : sx = 1 ∨ sx = -1) (hsy : sy = 1 ∨ sy = -1) : calls.Nodup := by
  have hrising : (calls.map (SinkCall.progress sx sy)).IsChain (· < ·) :=
    (List.isChain_map _).mpr ((h.chain hsx hsy).imp fun _ _ hnext => hnext.2)
  exact List.Nodup.of_map _ (hrising.pairwise.imp ne_of_lt)

end

/-- The general path of R93 is a path to its target. -/
theorem lineWalkCalls_path {x0 y0 x1 y1 : Int} (hx : x0 ≠ x1) (hy : y0 ≠ y1) :
    LinePath ((x1 - x0).natAbs : Int) ((y1 - y0).natAbs : Int) (if x0 < x1 then 1 else -1) (if y0 < y1 then 1 else -1)
      x0 y0 0 0 (lineWalkCalls x0 y0 x1 y1) := by
  have hdx : (0 : Int) < (x1 - x0).natAbs := by omega
  have hdy : (0 : Int) < (y1 - y0).natAbs := by omega
  have hpath := lineWalk_path (xs := x0) (ys := y0) (step_sign x0 x1) (step_sign y0 y1) hdx hdy
    (fuel := (x1 - x0).natAbs + (y1 - y0).natAbs + 1) (lineStart_at hdx hdy) (by push_cast; omega)
  rwa [← signed_distance, ← signed_distance, mul_zero, mul_zero, add_zero, add_zero] at hpath

end Sys2Proof.Machine
end

section
/-! PROOFS. The general path of a line. -/

namespace Sys2Proof.Machine

/-- Settles O39: the walk is a path, which has these properties one by one. -/
theorem lineWalkReachesItsTarget : Obligations.LineWalkReachesItsTarget := by
  intro x0 y0 x1 y1 _ _ _ _ _ _ _ _ hx hy calls
  have hsx := step_sign x0 x1
  have hsy := step_sign y0 y1
  have hpath := lineWalkCalls_path hx hy
  have hhead := hpath.head?
  have hlast := hpath.getLast?
  rw [mul_zero, mul_zero, add_zero, add_zero] at hhead
  rw [← signed_distance, ← signed_distance] at hlast
  obtain ⟨hflat, hsteep⟩ := hpath.length
  refine ⟨?_, hhead, hlast, hpath.nodup hsx hsy, hpath.pixels, fun k u v u' v' hk hk' => ?_⟩
  · change (lineWalkCalls x0 y0 x1 y1).length = _
    omega
  · obtain ⟨hlt, hk⟩ := List.getElem?_eq_some_iff.mp hk
    obtain ⟨hlt', hk'⟩ := List.getElem?_eq_some_iff.mp hk'
    obtain ⟨⟨a, b, a', b', hc, hc', hu, hv⟩, -⟩ :=
      List.isChain_iff_getElem.mp (hpath.chain hsx hsy) k hlt'
    cases hk.symm.trans hc
    cases hk'.symm.trans hc'
    exact ⟨hu, hv⟩

end Sys2Proof.Machine
end

section
/-! SUPPORT. What a line covers: its ends, once each, and exactly its run where it is horizontal or vertical (R91 to
R95). -/

namespace Sys2Proof.Machine

/-- The sink calls of a line are in their domain exactly where both ends are on the display (R94, R95). -/
theorem lineCalls_all_inDomain_iff (s : State) (x0 y0 x1 y1 : Byte) :
    (lineCalls x0.int y0.int x1.int y1.int).all (SinkCall.inDomain s) = true ↔
      (x0.toNat < s.w ∧ y0.toNat < s.h) ∧ x1.toNat < s.w ∧ y1.toNat < s.h := by
  refine ⟨fun hall => line_ends_on_display (List.all_eq_true.mp hall), fun hends => ?_⟩
  refine all_inDomain_of_within (fun c => lineCalls_within) ?_ ?_ ?_ ?_ <;> simp only [Byte.int] <;> omega

/-- Among distinct pixels of columns and rows `0 .. 255` each is covered once. -/
theorem multiplicity_of_mem_pixels {calls : List SinkCall} {x y a b : Int} (hnodup : calls.Nodup)
    (hpixels : ∀ c ∈ calls, ∃ p q, c = .pixel p q) (hin : ∀ c ∈ calls, c.within x y a b) (hx : 0 ≤ x)
    (hxa : x + a ≤ 255) (hy : 0 ≤ y) (hyb : y + b ≤ 255) {u v : Nat} (hmem : SinkCall.pixel u v ∈ calls) :
    multiplicity calls u v = 1 := by
  refine Eq.trans (List.countP_congr fun c hc => ?_) (List.count_eq_one_of_mem hnodup hmem)
  obtain ⟨p, q, rfl⟩ := hpixels c hc
  have hc := hin _ hc
  simp only [SinkCall.within] at hc
  rw [pixel_covers_int_iff (by omega) (by omega)]
  simp

section
variable {x0 y0 x1 y1 : Nat} (hx0 : x0 ≤ 255) (hy0 : y0 ≤ 255) (hx1 : x1 ≤ 255) (hy1 : y1 ≤ 255)
include hx0 hy0 hx1 hy1

/-- A horizontal or vertical line covers the pixels between its ends, each once (R91, R92). -/
theorem axisLine_multiplicity (haxis : x0 = x1 ∨ y0 = y1) (u v : Nat) :
    multiplicity (lineCalls x0 y0 x1 y1) u v =
      if min x0 x1 ≤ u ∧ u ≤ max x0 x1 ∧ min y0 y1 ≤ v ∧ v ≤ max y0 y1 then 1 else 0 := by
  unfold lineCalls
  split
  · have hrun := hrun_covers_int_iff (x := min x0 x1) (y := y0) (by omega) (by omega) u v (r := max x0 x1) (by omega)
    simp only [multiplicity_cons, multiplicity_nil, Nat.zero_add, hrun]
    refine if_congr ?_ rfl rfl
    omega
  · rw [if_pos (by omega)]
    have hrun := vrun_covers_int_iff (x := x0) (y := min y0 y1) (by omega) (by omega) u v (b := max y0 y1) (by omega)
    simp only [multiplicity_cons, multiplicity_nil, Nat.zero_add, hrun]
    refine if_congr ?_ rfl rfl
    omega

/-- A line covers each of its ends once (R94 (c), R95). -/
theorem lineCalls_multiplicity_ends {u v : Nat} (hend : u = x0 ∧ v = y0 ∨ u = x1 ∧ v = y1) :
    multiplicity (lineCalls x0 y0 x1 y1) u v = 1 := by
  by_cases haxis : x0 = x1 ∨ y0 = y1
  · rw [axisLine_multiplicity hx0 hy0 hx1 hy1 haxis, if_pos (by omega)]
  · have hx : (x0 : Int) ≠ x1 := by omega
    have hy : (y0 : Int) ≠ y1 := by omega
    obtain ⟨hstart, htarget⟩ := lineWalkCalls_ends hx hy
    have hpath := lineWalkCalls_path hx hy
    rw [lineCalls, if_neg hy, if_neg hx]
    refine multiplicity_of_mem_pixels (hpath.nodup (step_sign _ _) (step_sign _ _)) hpath.pixels
      (fun c => lineWalkCalls_within) (by omega) (by omega) (by omega) (by omega) ?_
    rcases hend with ⟨rfl, rfl⟩ | ⟨rfl, rfl⟩
    · exact hstart
    · exact htarget

end

/-- The pixels a shape command leaves where it raises no fault (R48). -/
theorem pixelAt_of_shape_completes {s t : State} {i : Instr} {calls : List SinkCall} (hfb : s.fb.wf = true)
    (hshape : shapeCalls s i = some calls) (hlegal : i.legalOperands = true) (h : exec i s = .next t)
    (hf : t.fault = false) {u v : Nat} (hu : u < s.w) (hv : v < s.h) :
    t.pixelAt u v = blendBit s.mode (s.pixelAt u v) (multiplicity calls u v) := by
  obtain ⟨hinside, houtside⟩ := shapeCommandsDrawTheirCalls s i calls hfb hshape hlegal
  cases hdom : calls.all (SinkCall.inDomain s) with
  | true =>
    obtain ⟨t', hexec, -, -, -, hpixel⟩ := hinside hdom
    obtain rfl := Host.Outcome.next.inj (hexec.symm.trans h)
    exact hpixel u v hu hv
  | false =>
    obtain ⟨t', hexec, hfault, -⟩ := houtside hdom
    obtain rfl := Host.Outcome.next.inj (hexec.symm.trans h)
    simp [hfault] at hf

end Sys2Proof.Machine
end

section
/-! PROOFS. LINETO. -/

namespace Sys2Proof.Machine

/-- Settles O38: one run, which covers what lies between the ends. -/
theorem axisLinesCoverTheirRun : Obligations.AxisLinesCoverTheirRun := by
  intro s t x y hfb haxis hf h u v hu hv
  have hbyte : ∀ b : Byte, b.toNat ≤ 255 := fun b => Nat.le_of_lt_succ b.isLt
  refine (pixelAt_of_shape_completes (i := .lineto x y) hfb rfl rfl h hf hu hv).trans (blendBit_once _ _ ?_)
  exact axisLine_multiplicity (hbyte _) (hbyte _) (hbyte _) (hbyte _)
    (haxis.imp (congrArg BitVec.toNat) (congrArg BitVec.toNat)) u v

/-- Settles O37: the line's calls lie in the box of its ends, and cover each end once. -/
theorem linetoDrawsToItsTarget : Obligations.LinetoDrawsToItsTarget := by
  intro s x y hfb
  have hw := s.w_le
  have hh := s.h_le
  obtain ⟨hinside, houtside⟩ := shapeCommandsDrawTheirCalls s (.lineto x y) _ hfb rfl rfl
  have hdom := lineCalls_all_inDomain_iff s s.curx s.cury x y
  refine ⟨fun hcx hcy hx hy => ?_, fun hout => houtside (Bool.eq_false_iff.mpr fun hall => ?_)⟩
  · obtain ⟨t, hexec, ht, hdirty, -, hpixel⟩ := hinside (hdom.mpr ⟨⟨hcx, hcy⟩, hx, hy⟩)
    refine ⟨t, hexec, ht, hdirty.trans ?_, fun u v hu hv hout => ?_, fun u v hend => ?_⟩
    · have hspan : ∀ a b : Nat, (((b : Int) - a).natAbs : Int) = (max a b : Nat) - (min a b : Nat) := by omega
      simp only [shapeMarked, Byte.int, hspan]
    · rw [hpixel u v hu hv, multiplicity_eq_zero_of_within (fun c => lineCalls_within), blendBit_zero] <;>
        simp only [Byte.int] <;> omega
    · have honce := lineCalls_multiplicity_ends (by omega) (by omega) (by omega) (by omega) hend
      exact ((hpixel u v (by omega) (by omega)).trans (congrArg _ honce)).trans (blendBit_one ..)
  · obtain ⟨⟨hcx, hcy⟩, hx, hy⟩ := hdom.mp hall
    omega

end Sys2Proof.Machine
end

section
/-! SUPPORT. The walks end by their own tests: with the iterations the model allows them, further ones add nothing
(R94, R107, R113, R153). -/

namespace Sys2Proof.Machine

/-- The main loop of an oval ends when its columns have crossed: every iteration makes a step (R107 (a)). -/
theorem ovalMain_fuel {emit : OvalVars → List SinkCall} {x y a b : Int} (ha : 0 ≤ a) (hb : 0 ≤ b) (fuel k : Nat)
    {i j : Int} {v : OvalVars} (h : OvalAt x y a b i j v) (hi : 0 ≤ i) (hia : 2 * i ≤ a) (hj : 0 ≤ j)
    (hjb : j ≤ b / 2) (hfuel : a / 2 + b / 2 + 1 - i - j ≤ fuel) :
    ovalMain emit (8 * a * a) (8 * b * b) (fuel + k) v = ovalMain emit (8 * a * a) (8 * b * b) fuel v := by
  induction fuel generalizing i j v with
  | zero => omega
  | succ n ih =>
    obtain ⟨i', j', hu, hii, -, hjj, -, hstep, hrows⟩ := ovalStep_at h ha hb hi hia hj hjb
    rw [Nat.succ_add, ovalMain, ovalMain]
    dsimp only
    split
    · rename_i hcols
      rw [hu.x0, hu.x1] at hcols
      rw [ih hu (by omega) (by omega) (by omega) (by omega) (by omega)]
    · rfl

/-- The trailing loop of an oval moves the rows apart by 2 in every iteration (R104). -/
theorem ovalTrail_fuel (b : Int) (fuel k : Nat) (v : OvalVars) (hfuel : b - (v.y0 - v.y1) < 2 * fuel) :
    ovalTrail b (fuel + k) v = ovalTrail b fuel v := by
  induction fuel generalizing v with
  | zero =>
    cases k with
    | zero => rfl
    | succ k => exact if_neg (by omega)
  | succ n ih =>
    rw [Nat.succ_add, ovalTrail, ovalTrail, ih _ (by dsimp only; push_cast at hfuel; omega)]

theorem ovalCalls_fuel (fill : Bool) (x y : Int) (w h k : Nat) (hw : 1 ≤ w) (hh : 1 ≤ h) :
    let v := ovalSetup x y w h
    let r := ovalMain (ovalEmit fill v.y0 v.y1) (8 * ((w : Int) - 1) * ((w : Int) - 1))
      (8 * ((h : Int) - 1) * ((h : Int) - 1)) (w + h + k) v
    r.1 ++ ovalTrail ((h : Int) - 1) (h + k) r.2 = ovalCalls fill x y w h := by
  have hat := ovalSetup_at x y w h
  have hy0 : (ovalSetup x y w h).y0 = y + ((h : Int) - 1 + 1) / 2 := by rw [hat.y0]; omega
  have hy1 : (ovalSetup x y w h).y1 = y + ((h : Int) - 1) / 2 := by rw [hat.y1]; omega
  obtain ⟨-, i, j, hend, -, -, hj, -⟩ := ovalMain_spec x y ((w : Int) - 1) ((h : Int) - 1) fill (by omega)
    (by omega) (w + h) 0 0 _ hat (by omega) (by omega) (by omega) (by omega) (by push_cast; omega)
  simp only [ovalCalls]
  rw [ovalMain_fuel (by omega) (by omega) (w + h) k hat (by omega) (by omega) (by omega) (by omega)
    (by push_cast; omega), ovalTrail_fuel]
  rw [hy0, hy1, hend.y0, hend.y1]
  omega

/-- The corner walk ends when its x step has reached the centre's column: every iteration makes a step (R113 (a)). -/
theorem cornerWalk_fuel (cx cy : Int) (m : Byte) {r : Int} (hr : 0 ≤ r) (fuel k : Nat) {i j : Int} {v : CornerVars}
    (h : CornerAt r i j v) (hir : i ≤ r) (hjr : j ≤ r) (hfuel : 2 * r + 1 - i - j ≤ fuel) :
    cornerWalk cx cy m (fuel + k) v = cornerWalk cx cy m fuel v := by
  induction fuel generalizing i j v with
  | zero => omega
  | succ n ih =>
    obtain ⟨i', j', hu, -, hi', -, -, hstep, hjr'⟩ := cornerStep_at h hr hjr
    rw [Nat.succ_add, cornerWalk, cornerWalk]
    refine congrArg (_ ++ ·) (if_ctx_congr Iff.rfl (fun _ => rfl) fun hx => ?_)
    rw [hu.x] at hx
    exact ih hu (by omega) hjr' (by omega)

end Sys2Proof.Machine
end

section
/-! PROOFS. The bounds of the walks. -/

namespace Sys2Proof.Machine

/-- Settles O45: every iteration of a walk makes a step, and the steps each can make are no more than it is allowed. -/
theorem walksEndByTheirOwnTest : Obligations.WalksEndByTheirOwnTest := by
  refine ⟨fun x0 y0 x1 y1 k hx hy => ?_, ovalCalls_fuel, fun cx cy r k m => ?_⟩
  · have hdx : (0 : Int) < (x1 - x0).natAbs := by omega
    have hdy : (0 : Int) < (y1 - y0).natAbs := by omega
    have hwalk := lineWalk_fuel (xs := x0) (ys := y0) (step_sign x0 x1) (step_sign y0 y1) hdx hdy
      ((x1 - x0).natAbs + (y1 - y0).natAbs + 1) k (lineStart_at hdx hdy) (by push_cast; omega)
    rwa [← signed_distance, ← signed_distance, mul_zero, mul_zero, add_zero, add_zero] at hwalk
  · exact cornerWalk_fuel cx cy m (by omega) _ k (cornerSetup_at r) (by omega) (by omega) (by push_cast; omega)

end Sys2Proof.Machine
end

section
/-! SUPPORT. Faults seen alone: `State.faultView` forgets all that no fault depends on, and from states of the same
view every command's effect raises the same fault, or completes in states of the same view (R87, R132, R136). -/

namespace Sys2Proof.Machine

/-- The state with the tracker, `MODE`, `CP`, `FB` and `CS` forgotten: what is left is the size, the cursor, the font
and `STATUS`. -/
def State.faultView (s : State) : State :=
  { s.untracked with mode := .set, cp := 0, fb := ⟨.zero, []⟩, cs := ⟨0, []⟩ }

theorem State.faultView_eq_of_untracked {s t : State} (h : s.untracked = t.untracked) : s.faultView = t.faultView := by
  simp only [State.faultView, h]

section
variable (s : State)

@[simp] theorem State.faultView_curx : s.faultView.curx = s.curx := rfl
@[simp] theorem State.faultView_cury : s.faultView.cury = s.cury := rfl
@[simp] theorem State.faultView_fault : s.faultView.fault = s.fault := rfl
@[simp] theorem State.faultView_fcode : s.faultView.fcode = s.fcode := rfl
@[simp] theorem State.faultView_setCursor (x y : Byte) :
    (s.setCursor x y).faultView = s.faultView.setCursor x y := rfl
theorem State.glyph_faultView (c : Byte) : s.faultView.glyph c = s.glyph c := rfl
theorem State.bitmapBit_faultView (k : Nat) : s.faultView.bitmapBit k = s.bitmapBit k := rfl

@[simp] theorem State.faultView_markDirty (l t w h : Int) : (s.markDirty l t w h).faultView = s.faultView :=
  State.faultView_eq_of_untracked (s.untracked_markDirty l t w h)

@[simp] theorem faultView_markCorner (cx cy r : Int) (m : Byte) : (markCorner cx cy r m s).faultView = s.faultView :=
  State.faultView_eq_of_untracked (untracked_markCorner s cx cy r m)

@[simp] theorem faultView_flushEffect : (flushEffect s).faultView = s.faultView :=
  State.faultView_eq_of_untracked (untracked_flushEffect s)

theorem SinkCall.inDomain_faultView : SinkCall.inDomain s.faultView = SinkCall.inDomain s := by
  funext c
  cases c <;> rfl

end

section
variable {s s' : State} (h : s.faultView = s'.faultView)
include h

theorem glyph_eq_of_faultView (c : Byte) : s.glyph c = s'.glyph c := by
  rw [← s.glyph_faultView, h, s'.glyph_faultView]

theorem bitmapBit_eq_of_faultView (k : Nat) : s.bitmapBit k = s'.bitmapBit k := by
  rw [← s.bitmapBit_faultView, h, s'.bitmapBit_faultView]

theorem inDomain_eq_of_faultView : SinkCall.inDomain s = SinkCall.inDomain s' := by
  rw [← SinkCall.inDomain_faultView s, h, SinkCall.inDomain_faultView s']

theorem cursor_eq_of_faultView : s.curx = s'.curx ∧ s.cury = s'.cury := by
  rw [← s.faultView_curx, ← s.faultView_cury, h]
  exact ⟨rfl, rfl⟩

theorem status_eq_of_faultView : s.fault = s'.fault ∧ s.fcode = s'.fcode := by
  rw [← s.faultView_fault, ← s.faultView_fcode, h]
  exact ⟨rfl, rfl⟩

theorem widthOf_eq_of_faultView (c : Byte) : widthOf s c = widthOf s' c := by
  rw [widthOf, widthOf, glyph_eq_of_faultView h]

theorem widthSum_eq_of_faultView (sum : Nat) (codes : List Byte) : widthSum s sum codes = widthSum s' sum codes := by
  induction codes generalizing sum with
  | nil => rfl
  | cons c rest ih => simp only [widthSum, widthOf_eq_of_faultView h, ih]

end

/-- Two effects raise the same fault, or complete in states of the same view. -/
def SameFault (r r' : Except FaultCode State) : Prop := r.map State.faultView = r'.map State.faultView

theorem SameFault.error (k : FaultCode) : SameFault (.error k) (.error k) := rfl

theorem SameFault.ok {t t' : State} (h : t.faultView = t'.faultView) : SameFault (.ok t) (.ok t') :=
  congrArg Except.ok h

/-- Effects with the same fault: both raise it, or both complete. -/
theorem SameFault.cases {r r' : Except FaultCode State} (h : SameFault r r') :
    (∃ k, r = .error k ∧ r' = .error k) ∨ ∃ t t', r = .ok t ∧ r' = .ok t' ∧ t.faultView = t'.faultView := by
  cases r with
  | ok t =>
    cases r' with
    | ok t' => exact .inr ⟨t, t', rfl, rfl, Except.ok.inj h⟩
    | error k => cases h
  | error k =>
    cases r' with
    | ok t' => cases h
    | error k' =>
      cases h
      exact .inl ⟨k, rfl, rfl⟩

theorem SameFault.bind {r r' : Except FaultCode State} {f g : State → Except FaultCode State} (h : SameFault r r')
    (hfg : ∀ t t', t.faultView = t'.faultView → SameFault (f t) (g t')) : SameFault (r >>= f) (r' >>= g) := by
  obtain ⟨k, rfl, rfl⟩ | ⟨t, t', rfl, rfl, ht⟩ := h.cases
  · exact .error k
  · exact hfg t t' ht

/-- An effect whose fault depends on the view alone. -/
def FaultsByView (f : State → Except FaultCode State) : Prop :=
  ∀ s s', s.faultView = s'.faultView → SameFault (f s) (f s')

theorem runSinks_faultsByView (calls : List SinkCall) : FaultsByView (runSinks calls) := by
  intro s s' h
  rw [runSinks_eq, runSinks_eq, inDomain_eq_of_faultView h]
  split
  · exact .ok h
  · exact .error _

theorem run_faultsByView (c : SinkCall) : FaultsByView c.run := by
  intro s s' h
  rw [← runSinks_singleton, ← runSinks_singleton]
  exact runSinks_faultsByView [c] s s' h

theorem drawShape_faultsByView (x y w h : Byte) (calls : List SinkCall) : FaultsByView (drawShape x y w h calls) := by
  intro s s' hs
  unfold drawShape
  split
  · exact .ok hs
  · exact runSinks_faultsByView calls _ _ (by simpa using hs)

theorem lineTo_faultsByView (x y : Byte) : FaultsByView (lineTo x y) := by
  intro s s' h
  obtain ⟨hx, hy⟩ := cursor_eq_of_faultView h
  rw [lineTo_eq_bind, lineTo_eq_bind, hx, hy]
  refine (runSinks_faultsByView _ _ _ (by simpa [shapeMarked] using h)).bind fun t t' ht => .ok ?_
  rw [State.faultView_setCursor, ht, State.faultView_setCursor]

theorem cornerEffect_faultsByView (cx cy r m : Byte) : FaultsByView (cornerEffect cx cy r m) := by
  intro s s' h
  unfold cornerEffect
  split
  · exact runSinks_faultsByView _ _ _ (by simpa using h)
  · exact .error _

theorem blitCells_faultsByView (g : Glyph) (ox oy : Byte) (cells : List (Nat × Nat)) :
    FaultsByView (blitCells g ox oy cells) := by
  intro s s' h
  induction cells generalizing s s' with
  | nil => exact .ok h
  | cons cr rest ih =>
    rw [blitCells, blitCells, bitmapBit_eq_of_faultView h]
    cases s'.bitmapBit (g.bitmapOffset + cr.2 * g.width + cr.1) with
    | error k => exact .error k
    | ok bit =>
      cases bit with
      | false => exact ih s s' h
      | true =>
        have hpixel := run_faultsByView (.pixel (ox.int + cr.1) (oy.int + cr.2)) s s' h
        obtain ⟨k, hrun, hrun'⟩ | ⟨t, t', hrun, hrun', ht⟩ := hpixel.cases
        · simp only [hrun, hrun']
          exact .error k
        · simp only [hrun, hrun']
          exact ih t t' ht

theorem drawGlyph_faultsByView (g : Glyph) : FaultsByView (drawGlyph g) := by
  intro s s' h
  obtain ⟨hx, hy⟩ := cursor_eq_of_faultView h
  have horigin : s.glyphOrigin g = s'.glyphOrigin g := by simp only [State.glyphOrigin, hx, hy]
  rw [drawGlyph_eq_bind, drawGlyph_eq_bind, horigin]
  refine (blitCells_faultsByView _ _ _ _ _ _ (by simpa using h)).bind fun t t' ht => .ok ?_
  obtain ⟨htx, hty⟩ := cursor_eq_of_faultView ht
  rw [State.faultView_setCursor, State.faultView_setCursor, ht, htx, hty]

theorem drawChar_faultsByView (c : Byte) : FaultsByView (drawChar c) := by
  intro s s' h
  rw [drawChar, drawChar, glyph_eq_of_faultView h]
  cases s'.glyph c with
  | error k => exact .error k
  | ok g? =>
    cases g? with
    | none => exact .ok h
    | some g => exact drawGlyph_faultsByView g s s' h

theorem drawString_faultsByView (codes : List Byte) : FaultsByView (drawString codes) := by
  induction codes with
  | nil => exact fun s s' h => .ok h
  | cons c rest ih =>
    intro s s' h
    rw [drawString_cons, drawString_cons]
    exact (drawChar_faultsByView c s s' h).bind ih

/-- Every command ends as `State.finish` ends an effect whose fault depends on the view alone. -/
theorem exec_faultsByView (i : Instr) :
    ∃ f : State → Except FaultCode State, (∀ s, exec i s = s.finish i.length (f s)) ∧ FaultsByView f := by
  cases i with
  | moveto x y =>
    exact ⟨fun s => .ok (s.setCursor x y), fun s => rfl, fun s s' h => .ok (congrArg (State.setCursor · x y) h)⟩
  | setmode m =>
    refine ⟨_, fun s => rfl, fun s s' h => ?_⟩
    cases modeOperand m with
    | some mode => exact .ok h
    | none => exact .error _
  | setfont en =>
    refine ⟨_, fun s => rfl, fun s s' h => ?_⟩
    cases fontOperand en with
    | some b => exact .ok (congrArg (State.setFonten · b) h)
    | none => exact .error _
  | clear => exact ⟨fun s => .ok _, fun s => rfl, fun s s' h => .ok h⟩
  | markdirty l t w h =>
    exact ⟨fun s => .ok (s.markDirty l.int t.int w.int h.int), fun s => rfl, fun s s' hs => .ok (by simpa using hs)⟩
  | invalidate => exact ⟨fun s => .ok _, fun s => rfl, fun s s' h => .ok h⟩
  | validate => exact ⟨fun s => .ok _, fun s => rfl, fun s s' h => .ok h⟩
  | flush => exact ⟨fun s => .ok (flushEffect s), fun s => rfl, fun s s' h => .ok (by simpa using h)⟩
  | pixel x y => exact ⟨_, fun s => rfl, fun s s' h => runSinks_faultsByView _ _ _ (by simpa using h)⟩
  | lineto x y => exact ⟨_, fun s => rfl, lineTo_faultsByView x y⟩
  | framerect x y w h | paintrect x y w h | frameoval x y w h | paintoval x y w h | framerrect x y w h c
  | paintrrect x y w h c => exact ⟨_, fun s => rfl, drawShape_faultsByView x y w h _⟩
  | corner cx cy r m => exact ⟨_, fun s => rfl, cornerEffect_faultsByView cx cy r m⟩
  | widthc c =>
    refine ⟨_, fun s => rfl, fun s s' h => ?_⟩
    rw [widthOf_eq_of_faultView h]
    cases widthOf s' c with
    | ok n => exact .ok h
    | error k => exact .error k
  | widths cs =>
    refine ⟨_, fun s => rfl, fun s s' h => ?_⟩
    rw [widthSum_eq_of_faultView h]
    cases widthSum s' 0 cs with
    | ok n => exact .ok h
    | error k => exact .error k
  | drawchar c => exact ⟨_, fun s => rfl, drawChar_faultsByView c⟩
  | drawstr cs => exact ⟨_, fun s => rfl, drawString_faultsByView cs⟩

/-- Commands whose effects have the same fault leave the same `STATUS`. -/
theorem SameFault.status {s s' t t' : State} {len : Nat} {r r' : Except FaultCode State} (h : SameFault r r')
    (ht : s.finish len r = .next t) (ht' : s'.finish len r' = .next t') : t.fault = t'.fault ∧ t.fcode = t'.fcode := by
  obtain ⟨k, rfl, rfl⟩ | ⟨u, u', rfl, rfl, hu⟩ := h.cases <;>
    obtain rfl := Host.Outcome.next.inj ht <;> obtain rfl := Host.Outcome.next.inj ht'
  · simp
  · exact status_eq_of_faultView hu

end Sys2Proof.Machine
end

section
/-! PROOFS. The noninterference statement of the faults. -/

namespace Sys2Proof.Machine

/-- Settles O17: the two states have the same view. -/
theorem faultsDependOnGeometryAndFontOnly : Obligations.FaultsDependOnGeometryAndFontOnly := by
  intro i s s' t t' hw hh hx hy hfonten hfm hbm hf hf' hfcode ht ht'
  obtain ⟨f, hexec, hview⟩ := exec_faultsByView i
  have hsame : s.faultView = s'.faultView := by
    simp only [State.faultView, State.untracked, hw, hh, hx, hy, hfonten, hfm, hbm, hf, hf', hfcode]
  exact (hview s s' hsame).status ((hexec s).symm.trans ht) ((hexec s').symm.trans ht')

end Sys2Proof.Machine
end

section
/-! SUPPORT. The oval walk as a path of offsets: an iteration draws the four points its offset is reflected to, and the
walk reaches every column and every row of its quadrant (R102 to R104). Frame and fill walk the same path. -/

namespace Sys2Proof.Machine

/-- The calls of an iteration after `i` x steps and `j` y steps (R103): the offset `(i, j)` from the left column and the
middle rows, reflected to all four quadrants. -/
def ovalPoint (fill : Bool) (x y a b i j : Int) : List SinkCall :=
  ovalEmit fill (y + (b + 1) / 2) (y + b / 2) ⟨x + i, x + a - i, y + (b + 1) / 2 + j, y + b / 2 - j, 0, 0, 0⟩

theorem OvalAt.emit {x y a b i j : Int} {v : OvalVars} (h : OvalAt x y a b i j v) (fill : Bool) :
    ovalEmit fill (y + (b + 1) / 2) (y + b / 2) v = ovalPoint fill x y a b i j := by
  simp only [ovalPoint, ovalEmit, h.x0, h.x1, h.y0, h.y1]

/-- The offsets of the main loop's iterations from `(i, j)` on: neighbours differ by one step at most on each axis, and
the last is in the middle column; `e` y steps have been made when the loop ends. -/
inductive OvalPath (a b : Int) : Int → Int → Int → List (Int × Int) → Prop
  | last {i j e : Int} (hi : i = a / 2) (hj : j ≤ b / 2) (he : j ≤ e) (he' : e ≤ j + 1) : OvalPath a b i j e [(i, j)]
  | step {i j i' j' e : Int} {heads : List (Int × Int)} (hi : i ≤ i') (hi' : i' ≤ i + 1) (hj : j ≤ j')
      (hj' : j' ≤ j + 1) (path : OvalPath a b i' j' e heads) : OvalPath a b i j e ((i, j) :: heads)

section
variable {a b i j e : Int} {heads : List (Int × Int)} (path : OvalPath a b i j e heads)
include path

theorem OvalPath.start_le : i ≤ a / 2 ∧ j ≤ b / 2 ∧ j ≤ e := by
  induction path with
  | last hi hj he he' => omega
  | step hi hi' hj hj' path ih => omega

theorem OvalPath.inside {k l : Int} (h : (k, l) ∈ heads) : (i ≤ k ∧ k ≤ a / 2) ∧ j ≤ l ∧ l ≤ b / 2 := by
  induction path with
  | last hi hj he he' =>
    obtain ⟨rfl, rfl⟩ := Prod.mk.inj (List.mem_singleton.mp h)
    omega
  | step hi hi' hj hj' path ih =>
    have hstart := path.start_le
    rcases List.mem_cons.mp h with h | h
    · obtain ⟨rfl, rfl⟩ := Prod.mk.inj h
      omega
    · have := ih h
      omega

/-- The path misses no column up to the middle one. -/
theorem OvalPath.column {k : Int} (hk : i ≤ k) (hka : k ≤ a / 2) : ∃ l, (k, l) ∈ heads := by
  induction path with
  | @last i j e hi hj he he' =>
    obtain rfl : k = i := by omega
    exact ⟨j, List.mem_cons_self⟩
  | @step i j i' j' e heads hi hi' hj hj' path ih =>
    by_cases hki : k = i
    · exact ⟨j, hki ▸ List.mem_cons_self⟩
    · obtain ⟨l, hl⟩ := ih (by omega)
      exact ⟨l, List.mem_cons_of_mem _ hl⟩

/-- The path misses no row up to where the main loop ends. -/
theorem OvalPath.row {l : Int} (hl : j ≤ l) (hle : l < e) : ∃ k, (k, l) ∈ heads := by
  induction path with
  | @last i j e hi hj he he' =>
    obtain rfl : l = j := by omega
    exact ⟨i, List.mem_cons_self⟩
  | @step i j i' j' e heads hi hi' hj hj' path ih =>
    by_cases hlj : l = j
    · exact ⟨i, hlj ▸ List.mem_cons_self⟩
    · obtain ⟨k, hk⟩ := ih (by omega) hle
      exact ⟨k, List.mem_cons_of_mem _ hk⟩

/-- The last iteration is in the middle column, and at most its own y step leads on. -/
theorem OvalPath.middle : ∃ l, (a / 2, l) ∈ heads ∧ e ≤ l + 1 := by
  induction path with
  | @last i j e hi hj he he' => exact ⟨j, hi ▸ List.mem_cons_self, he'⟩
  | step hi hi' hj hj' path ih =>
    obtain ⟨l, hl, he⟩ := ih
    exact ⟨l, List.mem_cons_of_mem _ hl, he⟩

end

/-! ## The loops -/

/-- The main loop's calls are those of a path, the same for frame and fill, and it ends one step past the middle. -/
theorem ovalMain_path {x y a b : Int} (ha : 0 ≤ a) (hb : 0 ≤ b) (fuel : Nat) {i j : Int} {v : OvalVars}
    (h : OvalAt x y a b i j v) (hi : 0 ≤ i) (hia : 2 * i ≤ a) (hj : 0 ≤ j) (hjb : j ≤ b / 2)
    (hfuel : a / 2 + b / 2 + 1 - i - j ≤ fuel) :
    ∃ heads e, OvalPath a b i j e heads ∧ ∀ fill,
      let r := ovalMain (ovalEmit fill (y + (b + 1) / 2) (y + b / 2)) (8 * a * a) (8 * b * b) fuel v
      r.1 = heads.flatMap (fun p => ovalPoint fill x y a b p.1 p.2) ∧ OvalAt x y a b (a / 2 + 1) e r.2 := by
  induction fuel generalizing i j v with
  | zero => omega
  | succ n ih =>
    obtain ⟨i', j', hu, hi1, hi2, hj1, hj2, hstep, hrows⟩ := ovalStep_at h ha hb hi hia hj hjb
    have hcross : (ovalStep (8 * a * a) (8 * b * b) v).x0 ≤ (ovalStep (8 * a * a) (8 * b * b) v).x1 ↔ 2 * i' ≤ a := by
      rw [hu.x0, hu.x1]; omega
    simp only [ovalMain, hcross]
    by_cases hcols : 2 * i' ≤ a
    · obtain ⟨heads, e, hpath, hloop⟩ := ih hu (by omega) hcols (by omega) (by omega) (by omega)
      refine ⟨(i, j) :: heads, e, .step hi1 hi2 hj1 hj2 hpath, fun fill => ?_⟩
      obtain ⟨hcalls, hend⟩ := hloop fill
      rw [if_pos hcols, List.flatMap_cons, h.emit, hcalls]
      exact ⟨rfl, hend⟩
    · refine ⟨[(i, j)], j', .last (by omega) hjb hj1 hj2, fun fill => ?_⟩
      rw [if_neg hcols, h.emit]
      obtain rfl : i' = a / 2 + 1 := by omega
      exact ⟨(List.flatMap_singleton ..).symm, hu⟩

/-- The trailing loop draws the middle column's points from row `e` on. -/
theorem mem_ovalTrail_iff {x y a b : Int} (fuel : Nat) {e : Int} {v : OvalVars} (hx0 : v.x0 = x + (a / 2 + 1))
    (hx1 : v.x1 = x + a - (a / 2 + 1)) (hy0 : v.y0 = y + (b + 1) / 2 + e) (hy1 : v.y1 = y + b / 2 - e)
    (hfuel : b / 2 + 1 - e ≤ fuel) (c : SinkCall) :
    c ∈ ovalTrail b fuel v ↔ ∃ j, (e ≤ j ∧ j ≤ b / 2) ∧ c ∈ ovalPoint false x y a b (a / 2) j := by
  induction fuel generalizing e v with
  | zero =>
    refine ⟨fun hc => absurd hc List.not_mem_nil, fun ⟨j, hj, _⟩ => ?_⟩
    omega
  | succ n ih =>
    have hfirst : c ∈ ovalPoint false x y a b (a / 2) e ↔ c ∈ ([.pixel (v.x0 - 1) v.y0, .pixel (v.x1 + 1) v.y0,
        .pixel (v.x0 - 1) v.y1, .pixel (v.x1 + 1) v.y1] : List SinkCall) := by
      rw [hx0, hx1, hy0, hy1, show x + (a / 2 + 1) - 1 = x + a / 2 by omega,
        show x + a - (a / 2 + 1) + 1 = x + a - a / 2 by omega]
      simp only [ovalPoint, ovalEmit, Bool.false_eq_true, if_false, List.mem_cons, List.not_mem_nil, or_false]
      tauto
    unfold ovalTrail
    split
    · rename_i hrows
      have hrest := ih (e := e + 1) (v := { v with y0 := v.y0 + 1, y1 := v.y1 - 1 }) hx0 hx1 (by dsimp only; omega)
        (by dsimp only; omega) (by push_cast at hfuel; omega)
      rw [List.mem_append, ← hfirst, hrest]
      constructor
      · rintro (hc | ⟨j, hj, hc⟩)
        · exact ⟨e, by omega, hc⟩
        · exact ⟨j, by omega, hc⟩
      · rintro ⟨j, hj, hc⟩
        by_cases hje : j = e
        · exact .inl (hje ▸ hc)
        · exact .inr ⟨j, by omega, hc⟩
    · rename_i hrows
      refine ⟨fun hc => absurd hc List.not_mem_nil, fun ⟨j, hj, _⟩ => ?_⟩
      omega

/-- The calls of an oval: the points of a path from the leftmost column, and in the middle column those of the rows
that are left, drawn as pixels also by the fill (R104). -/
theorem ovalCalls_points (x y : Int) {w h : Nat} {a b : Int} (ha : a = w - 1) (hb : b = h - 1) (hw : 1 ≤ w)
    (hh : 1 ≤ h) : ∃ heads e, OvalPath a b 0 0 e heads ∧ ∀ fill c, c ∈ ovalCalls fill x y w h ↔
      (∃ i j, (i, j) ∈ heads ∧ c ∈ ovalPoint fill x y a b i j) ∨
      ∃ j, (e ≤ j ∧ j ≤ b / 2) ∧ c ∈ ovalPoint false x y a b (a / 2) j := by
  subst ha hb
  have hat := ovalSetup_at x y w h
  have hy0 : (ovalSetup x y w h).y0 = y + ((h : Int) - 1 + 1) / 2 := by rw [hat.y0]; omega
  have hy1 : (ovalSetup x y w h).y1 = y + ((h : Int) - 1) / 2 := by rw [hat.y1]; omega
  obtain ⟨heads, e, hpath, hloop⟩ := ovalMain_path (by omega) (by omega) (w + h) hat le_rfl (by omega) le_rfl (by omega)
    (by push_cast; omega)
  have hstart := hpath.start_le
  refine ⟨heads, e, hpath, fun fill c => ?_⟩
  obtain ⟨hcalls, hend⟩ := hloop fill
  simp only [ovalCalls, hy0, hy1]
  rw [List.mem_append, hcalls, mem_ovalTrail_iff h hend.x0 hend.x1 hend.y0 hend.y1 (by omega)]
  simp only [List.mem_flatMap, Prod.exists]

end Sys2Proof.Machine
end

section
/-! SUPPORT. The outline of an oval, one quadrant of it, what frame and fill cover of it (R108), and what
the commands leave on and off the display (R105, R106). -/

namespace Sys2Proof.Machine

/-- The offsets an oval draws at: those of its path, and the rows left in the middle column. -/
def OvalOutline (a b e : Int) (heads : List (Int × Int)) (i j : Int) : Prop :=
  (i, j) ∈ heads ∨ i = a / 2 ∧ e ≤ j ∧ j ≤ b / 2

section
variable {a b e : Int} {heads : List (Int × Int)} (path : OvalPath a b 0 0 e heads)
include path

theorem OvalOutline.inside {i j : Int} (h : OvalOutline a b e heads i j) :
    (0 ≤ i ∧ i ≤ a / 2) ∧ 0 ≤ j ∧ j ≤ b / 2 := by
  rcases h with h | h
  · exact path.inside h
  · have := path.start_le
    omega

theorem OvalOutline.exists_row {i : Int} (hi : 0 ≤ i) (hia : i ≤ a / 2) : ∃ j, OvalOutline a b e heads i j :=
  (path.column hi hia).imp fun _ => .inl

theorem OvalOutline.exists_column {j : Int} (hj : 0 ≤ j) (hjb : j ≤ b / 2) : ∃ i, OvalOutline a b e heads i j := by
  by_cases hje : j < e
  · exact (path.row hj hje).imp fun _ => .inl
  · exact ⟨a / 2, .inr (by omega)⟩

end

/-- Pixel `(u, v)` is drawn at offset `(i, j)`: by the frame in two columns and two rows, by the fill in the same
columns and all rows between. -/
def OvalHolds (fill : Bool) (x y a b i j u v : Int) : Prop :=
  (u = x + i ∨ u = x + a - i) ∧
    if fill then y + b / 2 - j ≤ v ∧ v ≤ y + (b + 1) / 2 + j else v = y + b / 2 - j ∨ v = y + (b + 1) / 2 + j

section
variable {x y a b i j u v : Int}

theorem ovalHolds_frame_iff : OvalHolds false x y a b i j u v ↔
    (u = x + i ∨ u = x + a - i) ∧ (v = y + b / 2 - j ∨ v = y + (b + 1) / 2 + j) := by
  simp only [OvalHolds, Bool.false_eq_true, if_false]

theorem ovalHolds_fill_iff : OvalHolds true x y a b i j u v ↔
    (u = x + i ∨ u = x + a - i) ∧ y + b / 2 - j ≤ v ∧ v ≤ y + (b + 1) / 2 + j := by
  simp only [OvalHolds, if_true]

/-- What the frame draws the fill draws too (R108 (d)). -/
theorem OvalHolds.of_frame {fill : Bool} (h : OvalHolds false x y a b i j u v) (hj : 0 ≤ j) :
    OvalHolds fill x y a b i j u v := by
  cases fill with
  | false => exact h
  | true =>
    rw [ovalHolds_frame_iff] at h
    rw [ovalHolds_fill_iff]
    omega

theorem OvalHolds.reflect_column {fill : Bool} {u' : Int} (h : OvalHolds fill x y a b i j u v)
    (hu : u + u' = 2 * x + a) : OvalHolds fill x y a b i j u' v := by
  obtain ⟨hcol, hrow⟩ := h
  exact ⟨by omega, hrow⟩

theorem OvalHolds.reflect_row {fill : Bool} {v' : Int} (h : OvalHolds fill x y a b i j u v)
    (hv : v + v' = 2 * y + b) : OvalHolds fill x y a b i j u v' := by
  cases fill with
  | false =>
    rw [ovalHolds_frame_iff] at h ⊢
    omega
  | true =>
    rw [ovalHolds_fill_iff] at h ⊢
    omega

/-- The fill's last run in the middle column reaches up to where the trailing loop goes on, row by row (R104). -/
theorem OvalPath.fill_middle {e : Int} {heads : List (Int × Int)} (path : OvalPath a b 0 0 e heads) (hjb : j ≤ b / 2)
    (h : OvalHolds true x y a b (a / 2) j u v) :
    (∃ l, (a / 2, l) ∈ heads ∧ OvalHolds true x y a b (a / 2) l u v) ∨
      ∃ l, (e ≤ l ∧ l ≤ b / 2) ∧ OvalHolds false x y a b (a / 2) l u v := by
  obtain ⟨l, hl, hel⟩ := path.middle
  rw [ovalHolds_fill_iff] at h
  simp only [ovalHolds_frame_iff, ovalHolds_fill_iff]
  by_cases hbelow : v > y + (b + 1) / 2 + l
  · exact .inr ⟨v - (y + (b + 1) / 2), by omega, by omega⟩
  by_cases habove : v < y + b / 2 - l
  · exact .inr ⟨y + b / 2 - v, by omega, by omega⟩
  · exact .inl ⟨l, hl, by omega⟩

end

section
variable {x y a b i j : Int} (hx : 0 ≤ x) (hxa : x + a ≤ 255) (hy : 0 ≤ y) (hyb : y + b ≤ 255)
  (hi : 0 ≤ i ∧ i ≤ a / 2) (hj : 0 ≤ j ∧ j ≤ b / 2)
include hx hxa hy hyb hi hj

theorem ovalPoint_covers_iff (fill : Bool) (u v : Nat) :
    (∃ c ∈ ovalPoint fill x y a b i j, c.covers u v = true) ↔ OvalHolds fill x y a b i j u v := by
  have hl : 0 ≤ x + i ∧ x + i ≤ 255 := by omega
  have hr : 0 ≤ x + a - i ∧ x + a - i ≤ 255 := by omega
  have hb : 0 ≤ y + (b + 1) / 2 + j ∧ y + (b + 1) / 2 + j ≤ 255 := by omega
  have ht : 0 ≤ y + b / 2 - j ∧ y + b / 2 - j ≤ 255 := by omega
  have hm0 : 0 ≤ y + (b + 1) / 2 ∧ y + (b + 1) / 2 ≤ 255 := by omega
  have hm1 : 0 ≤ y + b / 2 ∧ y + b / 2 ≤ 255 := by omega
  cases fill with
  | false =>
    simp only [ovalHolds_frame_iff, ovalPoint, ovalEmit, Bool.false_eq_true, if_false, List.exists_mem_cons_iff,
      List.not_mem_nil, false_and, exists_false, or_false, pixel_covers_int_iff hl hb, pixel_covers_int_iff hl ht,
      pixel_covers_int_iff hr hb, pixel_covers_int_iff hr ht]
    omega
  | true =>
    simp only [ovalHolds_fill_iff, ovalPoint, ovalEmit, if_true, List.exists_mem_cons_iff, List.not_mem_nil, false_and,
      exists_false, or_false, vrun_covers_int_iff hl hm0 u v hb, vrun_covers_int_iff hr hm0 u v hb,
      vrun_covers_int_iff hl ht u v hm1, vrun_covers_int_iff hr ht u v hm1]
    omega

end

theorem one_le_multiplicity_iff {calls : List SinkCall} {u v : Nat} :
    1 ≤ multiplicity calls u v ↔ ∃ c ∈ calls, c.covers u v = true := List.countP_pos_iff

/-- The pixels of an oval, frame or fill, are those its outline holds, for both the same outline. -/
theorem ovalCalls_covers {x y w h : Nat} {a b : Int} (ha : a = w - 1) (hb : b = h - 1) (hw : 1 ≤ w) (hh : 1 ≤ h)
    (hx : x + w ≤ 256) (hy : y + h ≤ 256) : ∃ heads e, OvalPath a b 0 0 e heads ∧ ∀ (fill : Bool) (u v : Nat),
      1 ≤ multiplicity (ovalCalls fill x y w h) u v ↔
        ∃ i j, OvalOutline a b e heads i j ∧ OvalHolds fill x y a b i j u v := by
  obtain ⟨heads, e, path, hcalls⟩ := ovalCalls_points x y ha hb hw hh
  have hstart := path.start_le
  have hpoint : ∀ (fill : Bool) (u v : Nat) (i j : Int), (0 ≤ i ∧ i ≤ a / 2) → (0 ≤ j ∧ j ≤ b / 2) →
      ((∃ c ∈ ovalPoint fill x y a b i j, c.covers u v = true) ↔ OvalHolds fill x y a b i j u v) :=
    fun fill u v i j hi hj => ovalPoint_covers_iff (by omega) (by omega) (by omega) (by omega) hi hj fill u v
  refine ⟨heads, e, path, fun fill u v => ?_⟩
  rw [one_le_multiplicity_iff]
  constructor
  · rintro ⟨c, hc, hcov⟩
    rcases (hcalls fill c).mp hc with ⟨i, j, hij, hc⟩ | ⟨j, hj, hc⟩
    · obtain ⟨hi, hj⟩ := path.inside hij
      exact ⟨i, j, .inl hij, (hpoint fill u v i j hi hj).mp ⟨c, hc, hcov⟩⟩
    · have hholds := (hpoint false u v _ j ⟨hstart.1, le_rfl⟩ (by omega)).mp ⟨c, hc, hcov⟩
      exact ⟨_, j, .inr ⟨rfl, hj⟩, hholds.of_frame (by omega)⟩
  · rintro ⟨i, j, hij, hholds⟩
    have hdrawn : (∃ i j, (i, j) ∈ heads ∧ OvalHolds fill x y a b i j u v) ∨
        ∃ l, (e ≤ l ∧ l ≤ b / 2) ∧ OvalHolds false x y a b (a / 2) l u v := by
      rcases hij with hij | ⟨rfl, hj⟩
      · exact .inl ⟨i, j, hij, hholds⟩
      · cases fill with
        | false => exact .inr ⟨j, hj, hholds⟩
        | true => exact (path.fill_middle hj.2 hholds).imp_left fun h => ⟨_, h⟩
    rcases hdrawn with ⟨i, j, hij, hholds⟩ | ⟨l, hl, hholds⟩
    · obtain ⟨hi, hj⟩ := path.inside hij
      obtain ⟨c, hc, hcov⟩ := (hpoint fill u v i j hi hj).mpr hholds
      exact ⟨c, (hcalls fill c).mpr (.inl ⟨i, j, hij, hc⟩), hcov⟩
    · obtain ⟨c, hc, hcov⟩ := (hpoint false u v _ l ⟨hstart.1, le_rfl⟩ (by omega)).mpr hholds
      exact ⟨c, (hcalls fill c).mpr (.inr ⟨l, hl, hc⟩), hcov⟩

/-- An iteration whose calls are in their domain has its columns and its rows on the display. -/
theorem ovalPoint_on_display {s : State} {fill : Bool} {x y a b i j : Int}
    (hd : ∀ c ∈ ovalPoint fill x y a b i j, c.inDomain s = true) :
    ((x + i) % 256 < s.w ∧ (x + a - i) % 256 < s.w) ∧
      (y + b / 2 - j) % 256 < s.h ∧ (y + (b + 1) / 2 + j) % 256 < s.h := by
  cases fill <;>
    simp only [ovalPoint, ovalEmit, Bool.false_eq_true, if_false, if_true, List.forall_mem_cons, SinkCall.inDomain,
      wrap8_toNat, Bool.and_eq_true, decide_eq_true_eq] at hd <;> omega

/-- An oval whose calls are in their domain lies on the display, edges that wrap included: it has a point in every
column and every row (R105, R106). -/
theorem ovalCalls_on_display {s : State} {fill : Bool} {x y w h : Nat} (hx : x < 256) (hy : y < 256) (hw : 1 ≤ w)
    (hh : 1 ≤ h) (hd : ∀ c ∈ ovalCalls fill x y w h, c.inDomain s = true) : x + w ≤ s.w ∧ y + h ≤ s.h := by
  have hcols := s.w_le
  have hrows := s.h_le
  obtain ⟨heads, e, path, hcalls⟩ := ovalCalls_points x y rfl rfl hw hh
  have hpoint : ∀ i j, OvalOutline (w - 1) (h - 1) e heads i j →
      ∃ fill', ∀ c ∈ ovalPoint fill' x y (w - 1) (h - 1) i j, c.inDomain s = true := by
    rintro i j (hij | ⟨rfl, hj⟩)
    · exact ⟨fill, fun c hc => hd c ((hcalls fill c).mpr (.inl ⟨i, j, hij, hc⟩))⟩
    · exact ⟨false, fun c hc => hd c ((hcalls fill c).mpr (.inr ⟨j, hj, hc⟩))⟩
  constructor
  · by_contra hout
    obtain ⟨k, hk⟩ : ∃ k : Int, k = max x s.w - x := ⟨_, rfl⟩
    obtain ⟨j, hij⟩ := OvalOutline.exists_row path (i := min k (w - 1 - k)) (by omega) (by omega)
    obtain ⟨_, hd'⟩ := hpoint _ j hij
    obtain ⟨⟨hl, hr⟩, -⟩ := ovalPoint_on_display hd'
    omega
  · by_contra hout
    obtain ⟨k, hk⟩ : ∃ k : Int, k = max y s.h - y := ⟨_, rfl⟩
    obtain ⟨i, hij⟩ := OvalOutline.exists_column path (j := max (k - h / 2) ((h - 1) / 2 - k)) (by omega) (by omega)
    obtain ⟨_, hd'⟩ := hpoint i _ hij
    obtain ⟨-, ht, hb⟩ := ovalPoint_on_display hd'
    omega

section
variable {s : State} {i : Instr} {fill : Bool} {x y w h : Byte}
  (hshape : shapeCalls s i = some (if w = 0 ∨ h = 0 then [] else ovalCalls fill x.int y.int w.toNat h.toNat))
  (hlegal : i.legalOperands = true) (hne : ¬(w = 0 ∨ h = 0))
include hshape hlegal hne

/-- An oval command on the display marks the rectangle and draws inside it (R105, R106). -/
theorem oval_completes (hfb : s.fb.wf = true) (hmark : shapeMarked s i = s.markDirty x.int y.int w.int h.int)
    (hcursor : shapeCursor s i = (s.curx, s.cury)) (hx : x.toNat + w.toNat ≤ s.w) (hy : y.toNat + h.toNat ≤ s.h) :
    ∃ t, exec i s = .next t ∧
      t = { s with dx := t.dx, dy := t.dy, dw := t.dw, dh := t.dh, fb := t.fb,
                   cp := s.cp + BitVec.ofNat 16 i.length } ∧
      t.dirty = (s.markBox x y w h).dirty ∧
      ∀ u v, u < s.w → v < s.h → inBox x.toNat y.toNat w.toNat h.toNat u v = false → t.pixelAt u v = s.pixelAt u v := by
  have hcols := s.w_le
  have hrows := s.h_le
  obtain ⟨hw, hh⟩ := (nonempty_iff w h).mp hne
  have hin := ovalCalls_within fill x.toNat y.toNat _ _ hw hh
  obtain ⟨t, hexec, ht, hdirty, hpixel⟩ := rectangle_completes hfb hshape hlegal hmark hcursor hne hx hy hin
  refine ⟨t, hexec, ht, hdirty, fun u v hu hv hout => ?_⟩
  rw [Bool.eq_false_iff, ne_eq, inBox_iff] at hout
  rw [hpixel u v hu hv]
  exact (congrArg _ (multiplicity_eq_zero_of_within hin (by omega) (by omega) (by omega) (by omega) (by omega))).trans
    (blendBit_zero ..)

/-- An oval command off the display faults (R105, R106). -/
theorem oval_faults (hout : s.w < x.toNat + w.toNat ∨ s.h < y.toNat + h.toNat) :
    RaisesFault (exec i s) s .sinkRange := by
  obtain ⟨hw, hh⟩ := (nonempty_iff w h).mp hne
  refine rectangle_faults hshape hlegal hne fun hall => ?_
  obtain ⟨hx, hy⟩ := ovalCalls_on_display x.isLt y.isLt hw hh hall
  omega

end

end Sys2Proof.Machine
end

section
/-! PROOFS. The statements of `42_oval.md`. -/

namespace Sys2Proof.Machine

/-- Settles O42: the oval's calls lie in its rectangle, and in every column and every row of it there is one. -/
theorem ovalsDrawInsideTheirRectangle : Obligations.OvalsDrawInsideTheirRectangle := by
  intro s x y w h hfb hw hh
  have hne := not_or.mpr ⟨hw, hh⟩
  refine ⟨fun hx hy => ⟨?_, ?_⟩, fun hout => ⟨?_, ?_⟩⟩
  · exact oval_completes (i := .frameoval x y w h) rfl rfl hne hfb rfl rfl hx hy
  · exact oval_completes (i := .paintoval x y w h) rfl rfl hne hfb rfl rfl hx hy
  · exact oval_faults (i := .frameoval x y w h) rfl rfl hne hout
  · exact oval_faults (i := .paintoval x y w h) rfl rfl hne hout

/-- Settles O43: the outline reaches the first column and the outermost row of its quadrant, and each of its offsets is
drawn in all four quadrants. -/
theorem ovalsAreInscribedAndSymmetric : Obligations.OvalsAreInscribedAndSymmetric := by
  intro fill x y w h hw hh hx hy
  dsimp only
  obtain ⟨a, ha⟩ : ∃ a : Int, a = w - 1 := ⟨_, rfl⟩
  obtain ⟨b, hb⟩ : ∃ b : Int, b = h - 1 := ⟨_, rfl⟩
  obtain ⟨heads, e, path, hcovers⟩ := ovalCalls_covers ha hb hw hh hx hy
  have hdraws : ∀ {i j : Int} {u v : Nat}, OvalOutline a b e heads i j → OvalHolds false x y a b i j u v →
      1 ≤ multiplicity (ovalCalls fill x y w h) u v :=
    fun hij hholds => (hcovers fill _ _).mpr ⟨_, _, hij, hholds.of_frame (hij.inside path).2.1⟩
  have hreflectColumn : ∀ {u u' : Nat} (v : Nat), (u : Int) + u' = 2 * x + a →
      1 ≤ multiplicity (ovalCalls fill x y w h) u v → 1 ≤ multiplicity (ovalCalls fill x y w h) u' v := by
    intro u u' v hu hn
    obtain ⟨i, j, hij, hholds⟩ := (hcovers fill u v).mp hn
    exact (hcovers fill u' v).mpr ⟨i, j, hij, hholds.reflect_column hu⟩
  have hreflectRow : ∀ (u : Nat) {v v' : Nat}, (v : Int) + v' = 2 * y + b →
      1 ≤ multiplicity (ovalCalls fill x y w h) u v → 1 ≤ multiplicity (ovalCalls fill x y w h) u v' := by
    intro u v v' hv hn
    obtain ⟨i, j, hij, hholds⟩ := (hcovers fill u v).mp hn
    exact (hcovers fill u v').mpr ⟨i, j, hij, hholds.reflect_row hv⟩
  obtain ⟨j, hside⟩ := OvalOutline.exists_row path (i := 0) le_rfl (by omega)
  obtain ⟨i, hcap⟩ := OvalOutline.exists_column path (j := b / 2) (by omega) le_rfl
  obtain ⟨-, hj⟩ := hside.inside path
  obtain ⟨hi, -⟩ := hcap.inside path
  have hcolumnTouched : ∀ u : Nat, (u = x ∨ u = x + w - 1) → ∃ v, 1 ≤ multiplicity (ovalCalls fill x y w h) u v :=
    fun u hu => ⟨(y + b / 2 - j).toNat, hdraws hside (ovalHolds_frame_iff.mpr (by omega))⟩
  have hrowTouched : ∀ v : Nat, (v = y ∨ v = y + h - 1) → ∃ u, 1 ≤ multiplicity (ovalCalls fill x y w h) u v :=
    fun v hv => ⟨(x + i).toNat, hdraws hcap (ovalHolds_frame_iff.mpr (by omega))⟩
  refine ⟨fun u v hn => ?_, hcolumnTouched _ (.inl rfl), hcolumnTouched _ (.inr rfl),
    hrowTouched _ (.inl rfl), hrowTouched _ (.inr rfl), fun u v hbox => ?_⟩
  · obtain ⟨c, hc, hcov⟩ := one_le_multiplicity_iff.mp hn
    have hmem := (ovalCalls_within fill x y w h hw hh c hc).mem_of_covers (by omega) (by omega) (by omega) (by omega)
      hcov
    rw [inBox_iff]
    omega
  · rw [inBox_iff] at hbox
    exact ⟨⟨hreflectColumn v (by omega), hreflectColumn v (by omega)⟩, hreflectRow u (by omega),
      hreflectRow u (by omega)⟩

/-- Settles O44: frame and fill have one outline, and the fill draws the rows between the frame's two; of two offsets in
a column the one with more y steps draws what lies between both. -/
theorem paintovalFillsTheFrame : Obligations.PaintovalFillsTheFrame := by
  intro x y w h hw hh hx hy
  dsimp only
  obtain ⟨a, ha⟩ : ∃ a : Int, a = w - 1 := ⟨_, rfl⟩
  obtain ⟨b, hb⟩ : ∃ b : Int, b = h - 1 := ⟨_, rfl⟩
  obtain ⟨heads, e, path, hcovers⟩ := ovalCalls_covers ha hb hw hh hx hy
  simp only [hcovers, ovalHolds_frame_iff, ovalHolds_fill_iff]
  refine ⟨fun u v => ⟨?_, ?_⟩, fun u hu hu' => ?_⟩
  · rintro ⟨i, j, hij, hpixel⟩
    have hinside := hij.inside path
    exact ⟨(y + b / 2 - j).toNat, (y + (b + 1) / 2 + j).toNat, by omega, by omega, ⟨i, j, hij, by omega⟩,
      i, j, hij, by omega⟩
  · rintro ⟨v1, v2, hv1, hv2, ⟨i, j, hij, hpixel⟩, i', j', hij', hpixel'⟩
    have hinside := hij.inside path
    have hinside' := hij'.inside path
    obtain rfl : i = i' := by omega
    rcases le_total j j' with hj | hj
    · exact ⟨i, j', hij', by omega⟩
    · exact ⟨i, j, hij, by omega⟩
  · obtain ⟨j, hij⟩ := OvalOutline.exists_row path (i := min (u - x : Int) (x + a - u)) (by omega) (by omega)
    have hinside := hij.inside path
    exact ⟨(y + b / 2 - j).toNat, _, j, hij, by omega⟩

end Sys2Proof.Machine
end

section
/-! SUPPORT. The arc of a corner in closed form (R111, R113): which offsets from the centre lie inside it and which on
it, that it is symmetric and without holes, and how an iteration of the walk moves along it. -/

namespace Sys2Proof.Machine

/-- How far the square of an offset's distance from the centre exceeds that of the radius. -/
def cornerExcess (r a b : Int) : Int := a * a + b * b - r * r

/-- The offsets fill mode covers: those whose distance rounds to the radius or less, on the diagonal a little less,
where the walk steps past the outermost. -/
abbrev CornerInside (r a b : Int) : Prop :=
  cornerExcess r a b < max a b ∧ (a = b → cornerExcess r a b < a - 1)

/-- The offsets boundary mode covers: those inside whose distance rounds to the radius. -/
abbrev CornerEdge (r a b : Int) : Prop := CornerInside r a b ∧ -max a b ≤ cornerExcess r a b

section
variable (r a b : Int)

theorem cornerExcess_comm : cornerExcess r a b = cornerExcess r b a := by unfold cornerExcess; ring

theorem cornerExcess_column_succ : cornerExcess r (a + 1) b = cornerExcess r a b + 2 * a + 1 := by
  unfold cornerExcess; ring

theorem cornerExcess_row_succ : cornerExcess r a (b + 1) = cornerExcess r a b + 2 * b + 1 := by
  unfold cornerExcess; ring

theorem cornerExcess_radius_zero : cornerExcess r r 0 = 0 := by unfold cornerExcess; ring

theorem cornerExcess_radius_one : cornerExcess r r 1 = 1 := by unfold cornerExcess; ring

end

/-! ## The arc is symmetric and has no holes -/

theorem cornerInside_comm {r a b : Int} : CornerInside r a b ↔ CornerInside r b a := by
  have := cornerExcess_comm r a b
  omega

theorem cornerEdge_comm {r a b : Int} : CornerEdge r a b ↔ CornerEdge r b a := by
  have := cornerExcess_comm r a b
  omega

/-- What is inside is so down to the row beside the centre. -/
theorem CornerInside.row_mono {r a b b' : Int} (h : CornerInside r a b') (ha : 1 ≤ a) (hb : 0 ≤ b) (hbb : b ≤ b') :
    CornerInside r a b := by
  induction b', hbb using Int.leInduction with
  | base => exact h
  | succ n hn ih =>
    have := cornerExcess_row_succ r a n
    exact ih (by omega)

theorem CornerInside.column_mono {r a a' b : Int} (h : CornerInside r a' b) (hb : 1 ≤ b) (ha : 0 ≤ a) (haa : a ≤ a') :
    CornerInside r a b :=
  cornerInside_comm.mp ((cornerInside_comm.mp h).row_mono hb ha haa)

/-- An offset too near the centre to be on the arc has only such in its row, towards the centre's column. -/
theorem near_of_column_le {r a a' b : Int} (h : cornerExcess r a' b < -max a' b) (ha : 0 ≤ a) (haa : a ≤ a') :
    cornerExcess r a b < -max a b := by
  induction a', haa using Int.leInduction with
  | base => exact h
  | succ n hn ih =>
    have := cornerExcess_column_succ r n b
    exact ih (by omega)

/-- The arc has the offset beside the centre in the column at the radius (R113 (c)). -/
theorem cornerEdge_radius_one {r : Int} (hr : 2 ≤ r) : CornerEdge r r 1 := by
  have := cornerExcess_radius_one r
  omega

/-- Every column up to the radius is filled in the row beside the centre. -/
theorem cornerInside_beside {r a : Int} (hr : 2 ≤ r) (ha : 0 ≤ a) (har : a ≤ r) : CornerInside r a 1 :=
  (cornerEdge_radius_one hr).1.column_mono le_rfl ha har

/-- No column past the radius is inside. -/
theorem CornerInside.column_le {r a b : Int} (h : CornerInside r a b) (hr : 0 ≤ r) (hb : 1 ≤ b) : a ≤ r := by
  by_contra hlt
  have hbeside := (h.row_mono (b := 1) (by omega) (by omega) hb).column_mono (a := r + 1) le_rfl (by omega) (by omega)
  have hsucc := cornerExcess_column_succ r r 1
  have hone := cornerExcess_radius_one r
  omega

theorem CornerInside.row_le {r a b : Int} (h : CornerInside r a b) (hr : 0 ≤ r) (ha : 1 ≤ a) : b ≤ r :=
  (cornerInside_comm.mp h).column_le hr ha

/-- A row inside, below one that is not, is on the arc. -/
theorem cornerEdge_of_top {r a b : Int} (h : CornerInside r a b) (htop : ¬CornerInside r a (b + 1)) :
    CornerEdge r a b := by
  have := cornerExcess_row_succ r a b
  omega

/-- A column is filled from the centre's side out to the arc (R113 (d)). -/
theorem cornerInside_iff_exists_edge {r a b : Int} (hr : 0 ≤ r) (ha : 1 ≤ a) (hb : 1 ≤ b) :
    CornerInside r a b ↔ ∃ e, b ≤ e ∧ e ≤ r ∧ CornerEdge r a e := by
  constructor
  · intro h
    obtain ⟨e, ⟨hbe, he⟩, htop⟩ := Int.exists_greatest_of_bdd (P := fun e => b ≤ e ∧ CornerInside r a e)
      ⟨r, fun e ⟨_, he⟩ => he.row_le hr ha⟩ ⟨b, le_rfl, h⟩
    refine ⟨e, hbe, he.row_le hr ha, cornerEdge_of_top he fun hnext => ?_⟩
    have := htop (e + 1) ⟨by omega, hnext⟩
    omega
  · rintro ⟨e, hbe, -, he, -⟩
    exact he.row_mono ha (by omega) hbe

/-! ## One iteration of the walk -/

/-- The walk's variables at the offset `(p, q)` from the centre. -/
theorem cornerAt_offset_iff {r p q : Int} {v : CornerVars} : CornerAt r (r - p) q v ↔
    v.x = -p ∧ v.y = q ∧ v.err = cornerExcess r p q - 2 * p + 2 * q + 2 := by
  have herr : (r - p - r + 1) * (r - p - r + 1) + (q + 1) * (q + 1) - r * r =
      cornerExcess r p q - 2 * p + 2 * q + 2 := by unfold cornerExcess; ring
  constructor
  · rintro ⟨hx, hy, he⟩
    exact ⟨by omega, hy, he.trans herr⟩
  · rintro ⟨hx, hy, he⟩
    exact ⟨by omega, hy, he.trans herr.symm⟩

/-- An iteration at the offset `(p, q)` goes to the offset `(p', q')`, with an x step or without: it leaves the column
where the row further out is outside, and the row where the column further in is too near. -/
inductive CornerMove (r p q : Int) : Bool → Int → Int → Prop
  | row (hnear : cornerExcess r (p - 1) q < -max (p - 1) q) : CornerMove r p q false p (q + 1)
  | column (hout : ¬CornerInside r p (q + 1)) : CornerMove r p q true (p - 1) q
  | both (hnear : cornerExcess r (p - 1) q < -max (p - 1) q) (hout : ¬CornerInside r p (q + 1)) :
      CornerMove r p q true (p - 1) (q + 1)

theorem cornerXstep_iff {v u : CornerVars} : cornerXstep v u = true ↔ v.x < v.err ∨ u.y < u.err := by
  simp only [cornerXstep, Bool.or_eq_true, decide_eq_true_eq, gt_iff_lt]

/-- The y step is made where the error term allows it (R111). -/
theorem cornerStepY_cases (v : CornerVars) : (cornerStepY v).x = v.x ∧
    (v.err ≤ v.y ∧ (cornerStepY v).y = v.y + 1 ∧ (cornerStepY v).err = v.err + (2 * (v.y + 1) + 1) ∨
      v.y < v.err ∧ (cornerStepY v).y = v.y ∧ (cornerStepY v).err = v.err) := by
  unfold cornerStepY
  split
  · exact ⟨rfl, .inl ⟨‹_›, rfl, rfl⟩⟩
  · exact ⟨rfl, .inr ⟨by omega, rfl, rfl⟩⟩

/-- An iteration on the arc moves along the arc (R111). -/
theorem cornerStep_moves {r p q : Int} {v : CornerVars} (h : CornerAt r (r - p) q v) (hp : 1 ≤ p) (hq : 0 ≤ q)
    (hedge : CornerEdge r p q) : ∃ p' q', CornerAt r (r - p') q' (cornerStep v) ∧
      CornerMove r p q (cornerXstep v (cornerStepY v)) p' q' ∧ (1 ≤ p' → CornerEdge r p' q') := by
  obtain ⟨hx, hy, herr⟩ := cornerAt_offset_iff.mp h
  have hrow := cornerExcess_row_succ r p q
  have hcolumn := cornerExcess_column_succ r (p - 1) q
  have hboth := cornerExcess_row_succ r (p - 1) q
  rw [sub_add_cancel] at hcolumn
  obtain ⟨hux, hu⟩ := cornerStepY_cases v
  have hxstep := cornerXstep_iff (v := v) (u := cornerStepY v)
  simp only [cornerAt_offset_iff, cornerStep]
  cases hstep : cornerXstep v (cornerStepY v) with
  | false =>
    have hnone : ¬(v.x < v.err ∨ (cornerStepY v).y < (cornerStepY v).err) := by rw [← hxstep, hstep]; decide
    simp only [Bool.false_eq_true, if_false]
    exact ⟨p, q + 1, by omega, .row (by omega), fun _ => by omega⟩
  | true =>
    replace hxstep := hxstep.mp hstep
    simp only [if_true]
    rcases hu with hu | hu
    · exact ⟨p - 1, q + 1, by omega, .both (by omega) (by omega), fun _ => by omega⟩
    · exact ⟨p - 1, q, by omega, .column (by omega), fun _ => by omega⟩

end Sys2Proof.Machine
end

section
/-! SUPPORT. What one iteration of a corner arc covers (R112): its offset in each selected quadrant. -/

namespace Sys2Proof.Machine

/-- The call of an iteration at the offset `(p, q)` in quadrant `k` (R112). -/
def quadrantCall (fill : Bool) (cx cy p q : Int) (k : Nat) : SinkCall :=
  let col := if k = 0 ∨ k = 3 then cx - p else cx + p
  if fill then .vrun col (if k = 0 ∨ k = 1 then cy - q else cy + 1) (if k = 0 ∨ k = 1 then cy - 1 else cy + q)
  else .pixel col (if k = 0 ∨ k = 1 then cy - q else cy + q)

theorem cornerEmit_eq_flatMap (cx cy : Int) (m : Byte) (p q : Int) (xstep : Bool) : cornerEmit cx cy m p q xstep =
    (List.range' 0 4).flatMap fun k =>
      if maskBit m k && (!fillBit m || xstep) then [quadrantCall (fillBit m) cx cy p q k] else [] := by
  unfold cornerEmit
  cases hfill : fillBit m <;> cases xstep <;> simp [quadrantCall, List.range']

theorem multiplicity_append (xs ys : List SinkCall) (u v : Nat) :
    multiplicity (xs ++ ys) u v = multiplicity xs u v + multiplicity ys u v := List.countP_append

theorem multiplicity_flatMap_ite (ks : List Nat) (sel : Nat → Bool) (call : Nat → SinkCall) (u v : Nat) :
    multiplicity (ks.flatMap fun k => if sel k then [call k] else []) u v =
      ks.countP fun k => sel k && (call k).covers u v := by
  induction ks with
  | nil => rfl
  | cons k ks ih =>
    rw [List.flatMap_cons, multiplicity_append, ih, List.countP_cons, add_comm]
    cases sel k <;> simp [multiplicity_cons]

/-! ## The quadrant and the offset of a pixel -/

/-- The quadrant about the centre that pixel `(u, v)` is in; one is named also on the centre's column or row, where it is
in none. -/
def quadrantOf (cx cy : Int) (u v : Nat) : Nat :=
  if (u : Int) < cx then (if (v : Int) < cy then 0 else 3) else (if (v : Int) < cy then 1 else 2)

theorem quadrantOf_lt (cx cy : Int) (u v : Nat) : quadrantOf cx cy u v < 4 := by
  unfold quadrantOf
  split <;> split <;> decide

theorem eq_quadrantOf_iff {k : Nat} (hk : k < 4) {cx cy : Int} {u v : Nat} : k = quadrantOf cx cy u v ↔
    ((k = 0 ∨ k = 3) ↔ (u : Int) < cx) ∧ ((k = 0 ∨ k = 1) ↔ (v : Int) < cy) := by
  unfold quadrantOf
  split <;> split <;> omega

/-- The offset of column or row `u` from the centre's, on whichever side. -/
abbrev offsetFrom (c : Int) (u : Nat) : Int := max (u - c) (c - u)

theorem quadrantLeft_eq {k : Nat} (hk : k < 4) (cx r : Int) :
    quadrantLeft cx r k = if k = 0 ∨ k = 3 then cx - r else cx + 1 := by
  interval_cases k <;> rfl

theorem quadrantTop_eq {k : Nat} (hk : k < 4) (cy r : Int) :
    quadrantTop cy r k = if k = 0 ∨ k = 1 then cy - r else cy + 1 := by
  interval_cases k <;> rfl

/-- Every selected quadrant's box lies in columns and rows 0 to 255. -/
def QuadrantsFit (cx cy : Int) (r : Nat) (m : Byte) : Prop :=
  ∀ k < 4, maskBit m k = true → (0 ≤ quadrantLeft cx r k ∧ quadrantLeft cx r k + r ≤ 256) ∧
    0 ≤ quadrantTop cy r k ∧ quadrantTop cy r k + r ≤ 256

theorem quadrantsFit_of_inRange {cx cy r : Nat} {m : Byte} (hcx : cx ≤ 255) (hcy : cy ≤ 255)
    (h : quadrantsInRange cx cy r m = true) : QuadrantsFit cx cy r m := by
  obtain ⟨h0, h1, h2, h3⟩ := (quadrantsInRange_iff cx cy r m).mp h
  intro k hk hm
  interval_cases k <;> simp only [quadrantLeft, quadrantTop]
  · have := h0 hm; omega
  · have := h1 hm; omega
  · have := h2 hm; omega
  · have := h3 hm; omega

/-! ## The pixels of an iteration -/

/-- An iteration at the offset `(p, q)` covers the offset `(a, b)`. -/
abbrev CornerDraws (fill xstep : Bool) (p q a b : Int) : Prop :=
  p = a ∧ 1 ≤ b ∧ if fill = true then xstep = true ∧ b ≤ q else q = b

theorem cornerDraws_iff {fill xstep : Bool} {p q a b : Int} : CornerDraws fill xstep p q a b ↔
    (!fill || xstep) = true ∧ CornerDraws fill true p q a b := by
  cases fill <;> cases xstep <;> simp [CornerDraws]

section
variable {cx cy p q : Int} {r : Nat} {m : Byte} (hp : 1 ≤ p) (hpr : p ≤ r) (hq : 1 ≤ q) (hqr : q ≤ r)
include hp hpr hq hqr

theorem quadrantCall_covers_iff {k : Nat} (hk : k < 4)
    (hcol : 0 ≤ quadrantLeft cx r k ∧ quadrantLeft cx r k + r ≤ 256)
    (hrow : 0 ≤ quadrantTop cy r k ∧ quadrantTop cy r k + r ≤ 256) (fill : Bool) (u v : Nat) :
    (quadrantCall fill cx cy p q k).covers u v = true ↔
      k = quadrantOf cx cy u v ∧ CornerDraws fill true p q (offsetFrom cx u) (offsetFrom cy v) := by
  rw [quadrantLeft_eq hk] at hcol
  rw [quadrantTop_eq hk] at hrow
  rw [eq_quadrantOf_iff hk]
  have hc : 0 ≤ (if k = 0 ∨ k = 3 then cx - p else cx + p) ∧ (if k = 0 ∨ k = 3 then cx - p else cx + p) ≤ 255 := by
    omega
  cases fill with
  | false =>
    simp only [quadrantCall, CornerDraws, offsetFrom, Bool.false_eq_true, if_false]
    rw [pixel_covers_int_iff hc (by omega)]
    omega
  | true =>
    simp only [quadrantCall, CornerDraws, offsetFrom, if_true, true_and]
    rw [vrun_covers_int_iff hc (by omega) u v (by omega)]
    omega

/-- An iteration covers a pixel once where it draws its offset in a selected quadrant, else not at all. -/
theorem cornerEmit_multiplicity (hfit : QuadrantsFit cx cy r m) (xstep : Bool) (u v : Nat) :
    multiplicity (cornerEmit cx cy m p q xstep) u v =
      if maskBit m (quadrantOf cx cy u v) = true ∧
        CornerDraws (fillBit m) xstep p q (offsetFrom cx u) (offsetFrom cy v) then 1 else 0 := by
  have hcall : ∀ k ∈ List.range' 0 4,
      ((maskBit m k && (!fillBit m || xstep)) && (quadrantCall (fillBit m) cx cy p q k).covers u v) = true ↔
        k = quadrantOf cx cy u v ∧ maskBit m (quadrantOf cx cy u v) = true ∧
          CornerDraws (fillBit m) xstep p q (offsetFrom cx u) (offsetFrom cy v) := by
    intro k hk
    have hk4 : k < 4 := by simpa using hk
    rw [cornerDraws_iff, Bool.and_eq_true, Bool.and_eq_true]
    constructor
    · rintro ⟨⟨hsel, hemits⟩, hcov⟩
      obtain ⟨hcol, hrow⟩ := hfit k hk4 hsel
      obtain ⟨rfl, hdraws⟩ := (quadrantCall_covers_iff hp hpr hq hqr hk4 hcol hrow _ u v).mp hcov
      exact ⟨rfl, hsel, hemits, hdraws⟩
    · rintro ⟨rfl, hsel, hemits, hdraws⟩
      obtain ⟨hcol, hrow⟩ := hfit _ hk4 hsel
      exact ⟨⟨hsel, hemits⟩, (quadrantCall_covers_iff hp hpr hq hqr hk4 hcol hrow _ u v).mpr ⟨rfl, hdraws⟩⟩
  rw [cornerEmit_eq_flatMap, multiplicity_flatMap_ite, countP_range'_of_iff hcall]
  simp [quadrantOf_lt]

end

end Sys2Proof.Machine
end

section
/-! SUPPORT. What a corner arc covers (R113): in each selected quadrant the offsets of the arc in closed form, each
once. Every iteration draws what is ahead of it and not of the next. -/

namespace Sys2Proof.Machine

/-- A corner arc covers the offset `(a, b)` (R113). -/
abbrev CornerHolds (fill : Bool) (r a b : Int) : Prop :=
  (1 ≤ a ∧ 1 ≤ b) ∧ if fill = true then CornerInside r a b else CornerEdge r a b

section
variable {fill : Bool} {r a b : Int} (h : CornerHolds fill r a b)
include h

theorem CornerHolds.inside : CornerInside r a b := by
  obtain ⟨-, h⟩ := h
  split at h
  · exact h
  · exact h.1

theorem CornerHolds.bounds (hr : 0 ≤ r) : (1 ≤ a ∧ a ≤ r) ∧ 1 ≤ b ∧ b ≤ r := by
  obtain ⟨ha, hb⟩ := h.1
  exact ⟨⟨ha, h.inside.column_le hr hb⟩, hb, h.inside.row_le hr ha⟩

end

/-! ## What is ahead of an iteration -/

/-- The part of the arc the walk has still to draw at the offset `(p, q)`. -/
abbrev CornerAhead (fill : Bool) (r p q a b : Int) : Prop :=
  CornerHolds fill r a b ∧ a ≤ p ∧ (fill = false → q ≤ b)

theorem row_le_of_outside {r p q b : Int} (hout : ¬CornerInside r p (q + 1)) (hp : 1 ≤ p) (hq : 0 ≤ q)
    (hb : CornerInside r p b) : b ≤ q := by
  by_contra hlt
  exact hout (hb.row_mono hp (by omega) (by omega))

theorem column_le_of_near {r p q a : Int} (hnear : cornerExcess r (p - 1) q < -max (p - 1) q) (ha : 0 ≤ a)
    (hedge : -max a q ≤ cornerExcess r a q) : p ≤ a := by
  by_contra hlt
  have := near_of_column_le hnear ha (by omega)
  omega

section
variable {r p q p' q' : Int} {xstep : Bool} (hmove : CornerMove r p q xstep p' q')
include hmove

theorem CornerMove.progress : p' ≤ p ∧ q ≤ q' ∧ p' - q' < p - q := by
  cases hmove <;> omega

/-- What an iteration draws is not ahead of the next. -/
theorem CornerMove.not_ahead {fill : Bool} {a b : Int} (hdraws : CornerDraws fill xstep p q a b) :
    ¬CornerAhead fill r p' q' a b := by
  obtain ⟨rfl, hb, hrow⟩ := hdraws
  rintro ⟨-, hap, hqb⟩
  cases hmove with
  | row hnear =>
    cases fill with
    | false =>
      have := hqb rfl
      exact absurd hrow (by simp; omega)
    | true => exact absurd hrow.1 (by decide)
  | column | both => omega

/-- In boundary mode an iteration draws its own offset, and passes no other offset of the arc by. -/
theorem CornerMove.ahead_edge_iff {a b : Int} (hq : 0 ≤ q) (hedge : CornerEdge r p q) :
    CornerAhead false r p q a b ↔
      ((1 ≤ p ∧ 1 ≤ q) ∧ CornerDraws false xstep p q a b) ∨ CornerAhead false r p' q' a b := by
  simp only [CornerAhead, CornerHolds, CornerDraws, Bool.false_eq_true, if_false, forall_const]
  constructor
  · rintro ⟨⟨⟨ha, hb⟩, hholds⟩, hap, hqb⟩
    by_cases hhere : p = a ∧ q = b
    · exact .inl ⟨by omega, by omega⟩
    refine .inr ⟨⟨⟨ha, hb⟩, hholds⟩, ?_⟩
    have hrow : q = b → _ := fun h hnear => column_le_of_near (p := p) hnear (by omega) (h ▸ hholds.2)
    have hcolumn : a = p → _ := fun h hout => row_le_of_outside hout (by omega) hq (h ▸ hholds.1)
    cases hmove with
    | row hnear => have := fun h => hrow h hnear; omega
    | column hout => have := fun h => hcolumn h hout; omega
    | both hnear hout =>
      have := fun h => hrow h hnear
      have := fun h => hcolumn h hout
      omega
  · rintro (⟨hpq, rfl, hb, rfl⟩ | ⟨hholds, hap, hqb⟩)
    · exact ⟨⟨hpq, hedge⟩, le_rfl, le_rfl⟩
    · cases hmove <;> exact ⟨hholds, by omega, by omega⟩

/-- In fill mode an iteration that leaves its column draws all of it that is inside. -/
theorem CornerMove.ahead_inside_iff {a b : Int} (hq : 0 ≤ q) (hedge : CornerEdge r p q) :
    CornerAhead true r p q a b ↔
      ((1 ≤ p ∧ 1 ≤ q) ∧ CornerDraws true xstep p q a b) ∨ CornerAhead true r p' q' a b := by
  simp only [CornerAhead, CornerHolds, CornerDraws, if_true, Bool.true_eq_false, false_imp_iff, and_true]
  constructor
  · rintro ⟨⟨⟨ha, hb⟩, hholds⟩, hap⟩
    by_cases hcolumn : a = p
    · cases hmove with
      | row hnear => exact .inr ⟨⟨⟨ha, hb⟩, hholds⟩, hap⟩
      | column hout | both hnear hout =>
        have := row_le_of_outside hout (by omega) hq (hcolumn ▸ hholds)
        exact .inl ⟨by omega, hcolumn.symm, hb, rfl, this⟩
    · refine .inr ⟨⟨⟨ha, hb⟩, hholds⟩, ?_⟩
      cases hmove <;> omega
  · rintro (⟨hpq, rfl, hb, -, hbq⟩ | ⟨hholds, hap⟩)
    · exact ⟨⟨by omega, hedge.1.row_mono hpq.1 (by omega) hbq⟩, le_rfl⟩
    · cases hmove <;> exact ⟨hholds, by omega⟩

theorem CornerMove.ahead_iff (fill : Bool) {a b : Int} (hq : 0 ≤ q) (hedge : CornerEdge r p q) :
    CornerAhead fill r p q a b ↔
      ((1 ≤ p ∧ 1 ≤ q) ∧ CornerDraws fill xstep p q a b) ∨ CornerAhead fill r p' q' a b := by
  cases fill with
  | false => exact hmove.ahead_edge_iff hq hedge
  | true => exact hmove.ahead_inside_iff hq hedge

end

/-! ## The walk -/

/-- Two exclusive cases are counted apart. -/
theorem ite_eq_add_of_disjoint {P Q R : Prop} [Decidable P] [Decidable Q] [Decidable R] (h : P ↔ Q ∨ R)
    (hexclusive : Q → ¬R) : (if P then 1 else 0) = (if Q then 1 else 0) + if R then 1 else 0 := by
  by_cases hQ : Q
  · rw [if_pos (h.mpr (.inl hQ)), if_pos hQ, if_neg (hexclusive hQ)]
  · rw [if_neg hQ, zero_add]
    exact if_congr (h.trans (or_iff_right hQ)) rfl rfl

theorem one_le_ite_iff {P : Prop} [Decidable P] : 1 ≤ (if P then 1 else 0) ↔ P := by
  split <;> simp [*]

theorem cornerCalls_eq_nil (cx cy : Int) {r : Nat} (hr : r ≤ 1) (m : Byte) : cornerCalls cx cy r m = [] := by
  interval_cases r <;> rfl

section
variable {cx cy : Int} {r : Nat} {m : Byte} (hfit : QuadrantsFit cx cy r m) (u v : Nat)
include hfit

/-- From the offset `(p, q)` on, the walk covers in each selected quadrant what is ahead, each pixel once. -/
theorem cornerWalk_multiplicity (fuel : Nat) {p q : Int} {w : CornerVars} (h : CornerAt r (r - p) q w) (hp : 1 ≤ p)
    (hpr : p ≤ r) (hq : 0 ≤ q) (hedge : CornerEdge r p q) (hfuel : r + p - q + 1 ≤ fuel) :
    multiplicity (cornerWalk cx cy m fuel w) u v =
      if maskBit m (quadrantOf cx cy u v) = true ∧
        CornerAhead (fillBit m) r p q (offsetFrom cx u) (offsetFrom cy v) then 1 else 0 := by
  induction fuel generalizing p q w with
  | zero =>
    have := hedge.1.row_le (by omega) hp
    omega
  | succ n ih =>
    obtain ⟨p', q', hat, hmove, hedge'⟩ := cornerStep_moves h hp hq hedge
    obtain ⟨hx, hy, -⟩ := cornerAt_offset_iff.mp h
    obtain ⟨hx', -, -⟩ := cornerAt_offset_iff.mp hat
    have hhere : multiplicity (if -w.x ≥ 1 ∧ w.y ≥ 1 then
        cornerEmit cx cy m (-w.x) w.y (cornerXstep w (cornerStepY w)) else []) u v =
        if maskBit m (quadrantOf cx cy u v) = true ∧ (1 ≤ p ∧ 1 ≤ q) ∧ CornerDraws (fillBit m)
          (cornerXstep w (cornerStepY w)) p q (offsetFrom cx u) (offsetFrom cy v) then 1 else 0 := by
      rw [hx, hy, neg_neg]
      split
      · rename_i hpq
        obtain ⟨-, hq1⟩ := hpq
        rw [cornerEmit_multiplicity hp hpr hq1 (hedge.1.row_le (by omega) hp) hfit]
        simp [hp, hq1]
      · rename_i hpq
        exact (if_neg fun ⟨_, hpos, _⟩ => hpq hpos).symm
    have hrest : multiplicity (if (cornerStep w).x ≥ 0 then [] else cornerWalk cx cy m n (cornerStep w)) u v =
        if maskBit m (quadrantOf cx cy u v) = true ∧
          CornerAhead (fillBit m) r p' q' (offsetFrom cx u) (offsetFrom cy v) then 1 else 0 := by
      split
      · rename_i hend
        exact (if_neg fun ⟨_, ⟨⟨ha, _⟩, _⟩, hap, _⟩ => by omega).symm
      · rename_i hgoes
        obtain ⟨hp', hq', hpq⟩ := hmove.progress
        exact ih hat (by omega) (by omega) (by omega) (hedge' (by omega)) (by push_cast at hfuel; omega)
    rw [cornerWalk, multiplicity_append, hhere, hrest]
    refine (ite_eq_add_of_disjoint ?_ fun ⟨_, _, hdraws⟩ ⟨_, hahead⟩ => hmove.not_ahead hdraws hahead).symm
    rw [hmove.ahead_iff _ hq hedge, and_or_left]

/-- A corner arc covers the offsets of its arc in each selected quadrant, each once, and nothing else (R113). -/
theorem cornerCalls_multiplicity : multiplicity (cornerCalls cx cy r m) u v =
    if maskBit m (quadrantOf cx cy u v) = true ∧ CornerHolds (fillBit m) r (offsetFrom cx u) (offsetFrom cy v)
      then 1 else 0 := by
  by_cases hr : r = 0
  · rw [cornerCalls_eq_nil cx cy (by omega) m, multiplicity_nil, if_neg]
    rintro ⟨-, hholds⟩
    have := hholds.bounds (by omega)
    omega
  · have h0 := cornerExcess_radius_zero r
    have hstart := cornerWalk_multiplicity hfit u v (2 * r + 1) (p := r) (q := 0)
      (w := ⟨-(r : Int), 0, 2 - 2 * (r : Int)⟩) (cornerAt_offset_iff.mpr (by dsimp only; omega)) (by omega) le_rfl
      le_rfl (by omega) (by push_cast; omega)
    refine hstart.trans (if_congr (and_congr_right fun _ => ?_) rfl rfl)
    exact ⟨fun h => h.1, fun h => ⟨h, (h.bounds (by omega)).1.2, fun _ => by omega⟩⟩

end

section
variable {cx cy r : Nat} {m : Byte} (hcx : cx ≤ 255) (hcy : cy ≤ 255) (h : quadrantsInRange cx cy r m = true)
include hcx hcy h

/-- The boxes of the selected quadrants hold all that a corner arc covers (R113 (c)). -/
theorem cornerCalls_inBoxes {u v : Nat} (hcov : 1 ≤ multiplicity (cornerCalls cx cy r m) u v) :
    (maskBit m 0 = true ∧ inBox (cx - r) (cy - r) r r u v = true) ∨
      (maskBit m 1 = true ∧ inBox (cx + 1) (cy - r) r r u v = true) ∨
      (maskBit m 2 = true ∧ inBox (cx + 1) (cy + 1) r r u v = true) ∨
      (maskBit m 3 = true ∧ inBox (cx - r) (cy + 1) r r u v = true) := by
  obtain ⟨h0, h1, h2, h3⟩ := (quadrantsInRange_iff cx cy r m).mp h
  rw [cornerCalls_multiplicity (quadrantsFit_of_inRange hcx hcy h), one_le_ite_iff] at hcov
  obtain ⟨hsel, hholds⟩ := hcov
  have hbounds := hholds.bounds (by omega)
  dsimp only [offsetFrom] at hbounds
  have hk := quadrantOf_lt cx cy u v
  have hside := (eq_quadrantOf_iff hk (cx := cx) (cy := cy) (u := u) (v := v)).mp rfl
  simp only [inBox_iff]
  generalize quadrantOf cx cy u v = k at hk hsel hside
  interval_cases k
  · have := h0 hsel; exact .inl ⟨hsel, by omega⟩
  · have := h1 hsel; exact .inr (.inl ⟨hsel, by omega⟩)
  · have := h2 hsel; exact .inr (.inr (.inl ⟨hsel, by omega⟩))
  · have := h3 hsel; exact .inr (.inr (.inr ⟨hsel, by omega⟩))

/-- The pixel at an offset of a selected quadrant is covered where the offset is on the arc. -/
theorem cornerCalls_covers_offset_iff {q ex ey : Nat} (hq : q < 4) (hm : maskBit m q = true) (hex : 1 ≤ ex ∧ ex ≤ r)
    (hey : 1 ≤ ey ∧ ey ≤ r) :
    1 ≤ multiplicity (cornerCalls cx cy r m) (quadrantPixel cx cy q ex ey).1 (quadrantPixel cx cy q ex ey).2 ↔
      if fillBit m = true then CornerInside r ex ey else CornerEdge r ex ey := by
  obtain ⟨h0, h1, -, h3⟩ := (quadrantsInRange_iff cx cy r m).mp h
  obtain ⟨hquadrant, hcol, hrow⟩ :
      q = quadrantOf cx cy (quadrantPixel cx cy q ex ey).1 (quadrantPixel cx cy q ex ey).2 ∧
      offsetFrom cx (quadrantPixel cx cy q ex ey).1 = ex ∧ offsetFrom cy (quadrantPixel cx cy q ex ey).2 = ey := by
    have hleft : q = 0 ∨ q = 3 → r ≤ cx := by rintro (rfl | rfl); exacts [(h0 hm).1, (h3 hm).1]
    have htop : q = 0 ∨ q = 1 → r ≤ cy := by rintro (rfl | rfl); exacts [(h0 hm).2, (h1 hm).2]
    rw [eq_quadrantOf_iff hq]
    dsimp only [offsetFrom, quadrantPixel]
    split <;> split <;> omega
  have hpos : (1 : Int) ≤ ex ∧ (1 : Int) ≤ ey := by omega
  rw [cornerCalls_multiplicity (quadrantsFit_of_inRange hcx hcy h), hcol, hrow, ← hquadrant, one_le_ite_iff]
  simp only [hm, CornerHolds, hpos, true_and, and_self]

end

/-! ## Both modes of one mask -/

/-- Bits 3:0 of a mask select quadrants, whatever its fill bit. -/
theorem maskBit_of_mode : ∀ m : Byte, ∀ k < 4,
    maskBit (m &&& 0x0F) k = maskBit m k ∧ maskBit (m ||| 0x10) k = maskBit m k := by decide

theorem fillBit_of_mode : ∀ m : Byte, fillBit (m &&& 0x0F) = false ∧ fillBit (m ||| 0x10) = true := by decide

theorem quadrantsInRange_congr {cx cy r : Nat} {m m' : Byte} (h : ∀ k < 4, maskBit m' k = maskBit m k) :
    quadrantsInRange cx cy r m' = quadrantsInRange cx cy r m := by
  simp only [quadrantsInRange, h 0 (by decide), h 1 (by decide), h 2 (by decide), h 3 (by decide)]

section
variable {cx cy r q : Nat} {m : Byte} (hcx : cx ≤ 255) (hcy : cy ≤ 255) (h : quadrantsInRange cx cy r m = true)
  (hq : q < 4) (hm : maskBit m q = true) {ex ey : Nat} (hex : 1 ≤ ex ∧ ex ≤ r) (hey : 1 ≤ ey ∧ ey ≤ r)
include hcx hcy h hq hm hex hey

theorem corner_boundary_iff : 1 ≤ multiplicity (cornerCalls cx cy r (m &&& 0x0F)) (quadrantPixel cx cy q ex ey).1
    (quadrantPixel cx cy q ex ey).2 ↔ CornerEdge r ex ey := by
  rw [cornerCalls_covers_offset_iff hcx hcy
    ((quadrantsInRange_congr fun k hk => (maskBit_of_mode m k hk).1).trans h) hq
    ((maskBit_of_mode m q hq).1.trans hm) hex hey, (fillBit_of_mode m).1, if_neg Bool.false_ne_true]

theorem corner_fill_iff : 1 ≤ multiplicity (cornerCalls cx cy r (m ||| 0x10)) (quadrantPixel cx cy q ex ey).1
    (quadrantPixel cx cy q ex ey).2 ↔ CornerInside r ex ey := by
  rw [cornerCalls_covers_offset_iff hcx hcy
    ((quadrantsInRange_congr fun k hk => (maskBit_of_mode m k hk).2).trans h) hq
    ((maskBit_of_mode m q hq).2.trans hm) hex hey, (fillBit_of_mode m).2, if_pos rfl]

end

/-- `cornerInside_iff_exists_edge`, of an offset counted in pixels. -/
theorem cornerInside_iff_exists_nat_edge {r a b : Nat} (ha : 1 ≤ a) (hb : 1 ≤ b) :
    CornerInside r a b ↔ ∃ e : Nat, b ≤ e ∧ e ≤ r ∧ CornerEdge r a e := by
  rw [cornerInside_iff_exists_edge (by omega) (by omega) (by omega)]
  constructor
  · rintro ⟨e, hbe, her, he⟩
    lift e to Nat using by omega
    exact ⟨e, by omega, by omega, he⟩
  · rintro ⟨e, hbe, her, he⟩
    exact ⟨e, by omega, by omega, he⟩

end Sys2Proof.Machine
end

section
/-! SUPPORT. CORNER on the display (R114). -/

namespace Sys2Proof.Machine

/-- The boxes on the display, one condition under the mask bit it belongs to. -/
theorem State.cornerOnDisplay_iff {s : State} {cx cy r : Nat} {m : Byte} : s.cornerOnDisplay cx cy r m = true ↔
    (maskBit m 0 = true → (r ≤ cx ∧ r ≤ cy) ∧ cx ≤ s.w ∧ cy ≤ s.h) ∧
    (maskBit m 1 = true → r ≤ cy ∧ cx + 1 + r ≤ s.w ∧ cy ≤ s.h) ∧
    (maskBit m 2 = true → cx + 1 + r ≤ s.w ∧ cy + 1 + r ≤ s.h) ∧
    (maskBit m 3 = true → r ≤ cx ∧ cx ≤ s.w ∧ cy + 1 + r ≤ s.h) := by
  have hselected : ∀ {p c : Bool} {P : Prop}, (c = true ↔ P) → ((!p || c) = true ↔ (p = true → P)) := by
    rintro (_ | _) c P h <;> simp [h]
  simp only [State.cornerOnDisplay, Bool.and_eq_true, and_assoc]
  refine and_congr (hselected ?_) (and_congr (hselected ?_) (and_congr (hselected ?_) (hselected ?_))) <;>
    simp only [State.boxOnDisplay, Bool.and_eq_true, decide_eq_true_eq] <;> omega

/-- Boxes on the display lie in columns and rows 0 to 255. -/
theorem quadrantsInRange_of_onDisplay {s : State} {cx cy r : Nat} {m : Byte}
    (h : s.cornerOnDisplay cx cy r m = true) : quadrantsInRange cx cy r m = true := by
  have hw := s.w_le
  have hh := s.h_le
  obtain ⟨h0, h1, h2, h3⟩ := State.cornerOnDisplay_iff.mp h
  rw [quadrantsInRange_iff]
  refine ⟨fun hm => ?_, fun hm => ?_, fun hm => ?_, fun hm => ?_⟩
  · have := h0 hm; omega
  · have := h1 hm; omega
  · have := h2 hm; omega
  · have := h3 hm; omega

/-- An arc whose boxes lie on the display stays on it. -/
theorem cornerCalls_inDomain {s : State} {cx cy r : Nat} {m : Byte} (h : s.cornerOnDisplay cx cy r m = true) :
    (cornerCalls cx cy r m).all (SinkCall.inDomain s) = true := by
  obtain ⟨h0, h1, h2, h3⟩ := State.cornerOnDisplay_iff.mp h
  refine List.all_eq_true.mpr fun c hc => ?_
  obtain ⟨q, hq, hm, hwithin⟩ := cornerCalls_quadrant hc
  obtain ⟨hx, hxr, hy, hyr⟩ : 0 ≤ quadrantLeft cx r q ∧ quadrantLeft cx r q + (r - 1) < s.w ∧
      0 ≤ quadrantTop cy r q ∧ quadrantTop cy r q + (r - 1) < s.h := by
    interval_cases q <;> simp only [quadrantLeft, quadrantTop]
    · have := h0 hm; omega
    · have := h1 hm; omega
    · have := h2 hm; omega
    · have := h3 hm; omega
  exact hwithin.inDomain hx hxr hy hyr

end Sys2Proof.Machine
end

section
/-! SUPPORT. What a rounded rectangle covers (R116, R119): where both the column and the row lie beyond the straight
parts' spans, the arc of its corner; elsewhere its edges or its inside. -/

namespace Sys2Proof.Machine

/-- How far column or row `u` lies before or past the span from `lo` to `hi`. -/
abbrev offsetBeyond (lo hi : Int) (u : Nat) : Int := max (lo - u) (max (u - hi) 0)

/-- The pixel is on the arc of its corner of a rounded rectangle. -/
abbrev RoundRectArc (fill : Bool) (x y w h c u v : Nat) : Prop :=
  CornerHolds fill c (offsetBeyond (x + c) (x + w - 1 - c) u) (offsetBeyond (y + c) (y + h - 1 - c) v)

/-- The pixel lies in the straight parts of a rounded rectangle. -/
abbrev RoundRectStraight (fill : Bool) (x y w h c u v : Nat) : Prop :=
  inBox x y w h u v = true ∧ (x + c ≤ u ∧ u + c < x + w ∨ y + c ≤ v ∧ v + c < y + h) ∧
    (fill = true ∨ onBorder x y w h u v = true)

/-- The pixels of a rounded rectangle. -/
abbrev RoundRectHolds (fill : Bool) (x y w h c u v : Nat) : Prop :=
  RoundRectArc fill x y w h c u v ∨ RoundRectStraight fill x y w h c u v

/-! ## The arcs -/

/-- The masks of R116 select one quadrant each, and the mode. -/
theorem roundRect_mask : ∀ fill : Bool, ∀ k < 4,
    (∀ q < 4, maskBit ((if fill then (0x10 : Byte) else 0) ||| 1#8 <<< k) q = true ↔ q = k) ∧
      fillBit ((if fill then (0x10 : Byte) else 0) ||| 1#8 <<< k) = fill := by decide

/-- The arc in quadrant `k` covers what lies beyond both spans on the side `P`, where its offsets are the pixel's. -/
theorem roundRect_arc_multiplicity (fill : Bool) {cx cy : Int} {x y w h c k u v : Nat} {P : Prop} [Decidable P]
    (hk : k < 4) (hcol : 0 ≤ quadrantLeft cx c k ∧ quadrantLeft cx c k + c ≤ 256)
    (hrow : 0 ≤ quadrantTop cy c k ∧ quadrantTop cy c k + c ≤ 256)
    (hside : 1 ≤ offsetFrom cx u → 1 ≤ offsetFrom cy v →
      (((k = 0 ∨ k = 3) ↔ (u : Int) < cx) ∧ ((k = 0 ∨ k = 1) ↔ (v : Int) < cy) ↔ P))
    (hoffset : P → offsetFrom cx u = offsetBeyond (x + c) (x + w - 1 - c) u ∧
      offsetFrom cy v = offsetBeyond (y + c) (y + h - 1 - c) v) :
    multiplicity (cornerCalls cx cy c ((if fill then 0x10 else 0) ||| 1#8 <<< k)) u v =
      if P ∧ RoundRectArc fill x y w h c u v then 1 else 0 := by
  obtain ⟨hsel, hfill⟩ := roundRect_mask fill k hk
  have hfit : QuadrantsFit cx cy c ((if fill then 0x10 else 0) ||| 1#8 <<< k) := fun q hq hm => by
    obtain rfl := (hsel q hq).mp hm
    exact ⟨hcol, hrow⟩
  rw [cornerCalls_multiplicity hfit, hfill]
  refine (if_congr ?_ rfl rfl).symm
  rw [hsel _ (quadrantOf_lt ..), eq_comm (b := k), eq_quadrantOf_iff hk]
  constructor
  · rintro ⟨hP, harc⟩
    obtain ⟨hu, hv⟩ := hoffset hP
    rw [RoundRectArc, ← hu, ← hv] at harc
    exact ⟨(hside harc.1.1 harc.1.2).mpr hP, harc⟩
  · rintro ⟨hquadrant, harc⟩
    have hP := (hside harc.1.1 harc.1.2).mp hquadrant
    obtain ⟨hu, hv⟩ := hoffset hP
    rw [RoundRectArc, ← hu, ← hv]
    exact ⟨hP, harc⟩

section
variable {x y w h c : Nat} (hx : x + w ≤ 256) (hy : y + h ≤ 256) (hcw : 2 * c ≤ w) (hch : 2 * c ≤ h) (fill : Bool)
  (u v : Nat)
include hx hy hcw hch

theorem roundRect_topLeft_multiplicity :
    multiplicity (cornerCalls (x + c) (y + c) c ((if fill then 0x10 else 0) ||| 1)) u v =
      if (u < x + c ∧ v < y + c) ∧ RoundRectArc fill x y w h c u v then 1 else 0 := by
  refine roundRect_arc_multiplicity fill (k := 0) (by decide) ?_ ?_ ?_ ?_ <;>
    simp [quadrantLeft, quadrantTop, offsetFrom, offsetBeyond] <;> omega

theorem roundRect_topRight_multiplicity :
    multiplicity (cornerCalls (x + w - 1 - c) (y + c) c ((if fill then 0x10 else 0) ||| 2)) u v =
      if (x + w ≤ u + c ∧ v < y + c) ∧ RoundRectArc fill x y w h c u v then 1 else 0 := by
  refine roundRect_arc_multiplicity fill (k := 1) (by decide) ?_ ?_ ?_ ?_ <;>
    simp [quadrantLeft, quadrantTop, offsetFrom, offsetBeyond] <;> omega

theorem roundRect_bottomRight_multiplicity :
    multiplicity (cornerCalls (x + w - 1 - c) (y + h - 1 - c) c ((if fill then 0x10 else 0) ||| 4)) u v =
      if (x + w ≤ u + c ∧ y + h ≤ v + c) ∧ RoundRectArc fill x y w h c u v then 1 else 0 := by
  refine roundRect_arc_multiplicity fill (k := 2) (by decide) ?_ ?_ ?_ ?_ <;>
    simp [quadrantLeft, quadrantTop, offsetFrom, offsetBeyond] <;> omega

theorem roundRect_bottomLeft_multiplicity :
    multiplicity (cornerCalls (x + c) (y + h - 1 - c) c ((if fill then 0x10 else 0) ||| 8)) u v =
      if (u < x + c ∧ y + h ≤ v + c) ∧ RoundRectArc fill x y w h c u v then 1 else 0 := by
  refine roundRect_arc_multiplicity fill (k := 3) (by decide) ?_ ?_ ?_ ?_ <;>
    simp [quadrantLeft, quadrantTop, offsetFrom, offsetBeyond] <;> omega

end

/-! ## The straight parts -/

/-- The straight parts of a rounded rectangle: the frame's edges or the fill's bands (R116). -/
def roundRectStraights (fill : Bool) (x y : Int) (w h c : Nat) : List SinkCall :=
  if fill then
    (if w - 2 * c ≥ 1 then paintBody (x + c) y (w - 2 * c) c else []) ++
    (if h - 2 * c ≥ 1 then paintBody x (y + c) w (h - 2 * c) else []) ++
    (if w - 2 * c ≥ 1 then paintBody (x + c) (y + h - c) (w - 2 * c) c else [])
  else
    (if w - 2 * c ≥ 1 then [.hrun (x + c) (x + w - 1 - c) y, .hrun (x + c) (x + w - 1 - c) (y + h - 1)] else []) ++
    (if h - 2 * c ≥ 1 then [.vrun x (y + c) (y + h - 1 - c), .vrun (x + w - 1) (y + c) (y + h - 1 - c)] else [])

/-- A rounded rectangle is four arcs and its straight parts (R116). -/
theorem roundRectCalls_eq (fill : Bool) (x y : Int) (w h : Nat) {c : Nat} (hc : c ≠ 0) :
    roundRectCalls fill x y w h c =
      cornerCalls (x + c) (y + c) c ((if fill then 0x10 else 0) ||| 1) ++
      cornerCalls (x + w - 1 - c) (y + c) c ((if fill then 0x10 else 0) ||| 2) ++
      cornerCalls (x + w - 1 - c) (y + h - 1 - c) c ((if fill then 0x10 else 0) ||| 4) ++
      cornerCalls (x + c) (y + h - 1 - c) c ((if fill then 0x10 else 0) ||| 8) ++
      roundRectStraights fill x y w h c := if_neg hc

theorem multiplicity_ite (p : Prop) [Decidable p] (calls : List SinkCall) (u v : Nat) :
    multiplicity (if p then calls else []) u v = if p then multiplicity calls u v else 0 := by
  split <;> rfl

/-- A band covers its box, each pixel once, and is left out where the box is empty (R116). -/
theorem band_multiplicity {x' y' : Int} {x y w h : Nat} {p : Prop} [Decidable p] (hx' : x' = x) (hy' : y' = y)
    (hp : p → 1 ≤ h) (hn : ¬p → w = 0 ∨ h = 0) (hx : x + w ≤ 256) (hy : y + h ≤ 256) (u v : Nat) :
    multiplicity (if p then paintBody x' y' w h else []) u v = if inBox x y w h u v then 1 else 0 := by
  subst hx' hy'
  split
  · exact paintBody_multiplicity (hp ‹_›) hx hy u v
  · rw [multiplicity_nil, if_neg]
    rw [inBox_iff]
    have := hn ‹_›
    omega

/-- With a radius of 0 there are straight parts only (R116). -/
theorem roundRect_plain_multiplicity {x y w h : Nat} (hw : 1 ≤ w) (hh : 1 ≤ h) (hx : x + w ≤ 256) (hy : y + h ≤ 256)
    (fill : Bool) (u v : Nat) :
    multiplicity (roundRectCalls fill x y w h 0) u v =
      if inBox x y w h u v = true ∧ (fill = true ∨ onBorder x y w h u v = true) then 1 else 0 := by
  cases fill with
  | true => exact (paintBody_multiplicity hh hx hy u v).trans (if_congr (by simp) rfl rfl)
  | false => exact (frameBody_multiplicity hw hh hx hy u v).trans (if_congr (by simp [onBorder_iff]) rfl rfl)

section
variable {x y w h c : Nat} (hx : x + w ≤ 256) (hy : y + h ≤ 256) (hcw : 2 * c ≤ w) (hch : 2 * c ≤ h) (u v : Nat)
include hx hy hcw hch

theorem roundRect_bands_multiplicity (hc : 1 ≤ c) : multiplicity (roundRectStraights true x y w h c) u v =
    if RoundRectStraight true x y w h c u v then 1 else 0 := by
  have htop := band_multiplicity (p := w - 2 * c ≥ 1) (x' := x + c) (y' := y) (x := x + c) (y := y) (w := w - 2 * c)
    (h := c) (by omega) rfl (by omega) (by omega) (by omega) (by omega) u v
  have hmiddle := band_multiplicity (p := h - 2 * c ≥ 1) (x' := x) (y' := y + c) (x := x) (y := y + c) (w := w)
    (h := h - 2 * c) rfl (by omega) (by omega) (by omega) (by omega) (by omega) u v
  have hbottom := band_multiplicity (p := w - 2 * c ≥ 1) (x' := x + c) (y' := y + h - c) (x := x + c) (y := y + h - c)
    (w := w - 2 * c) (h := c) (by omega) (by omega) (by omega) (by omega) (by omega) (by omega) u v
  rw [roundRectStraights, if_pos rfl, multiplicity_append, multiplicity_append, htop, hmiddle, hbottom]
  simp only [RoundRectStraight, inBox_iff, true_or, and_true]
  split_ifs <;> omega

theorem roundRect_edges_multiplicity (hc : 1 ≤ c) : multiplicity (roundRectStraights false x y w h c) u v =
    if RoundRectStraight false x y w h c u v then 1 else 0 := by
  have hL : 0 ≤ (x + c : Int) ∧ (x + c : Int) ≤ 255 := by omega
  have hR : 0 ≤ (x + w - 1 - c : Int) ∧ (x + w - 1 - c : Int) ≤ 255 := by omega
  have hT : 0 ≤ (y + c : Int) ∧ (y + c : Int) ≤ 255 := by omega
  have hB : 0 ≤ (y + h - 1 - c : Int) ∧ (y + h - 1 - c : Int) ≤ 255 := by omega
  have hr : 0 ≤ (x + w - 1 : Int) ∧ (x + w - 1 : Int) ≤ 255 := by omega
  have hb : 0 ≤ (y + h - 1 : Int) ∧ (y + h - 1 : Int) ≤ 255 := by omega
  simp only [roundRectStraights, Bool.false_eq_true, if_false, multiplicity_append, multiplicity_ite,
    multiplicity_cons, multiplicity_nil, hrun_covers_int_iff hL (y := y) (by omega) u v hR,
    hrun_covers_int_iff hL hb u v hR, vrun_covers_int_iff (x := x) (by omega) hT u v hB,
    vrun_covers_int_iff hr hT u v hB, RoundRectStraight, onBorder_iff, inBox_iff, false_or]
  split_ifs <;> omega

/-- A rounded rectangle covers its pixels once each (R119 (a)). -/
theorem roundRectCalls_multiplicity (hw : 1 ≤ w) (hh : 1 ≤ h) (fill : Bool) :
    multiplicity (roundRectCalls fill x y w h c) u v = if RoundRectHolds fill x y w h c u v then 1 else 0 := by
  by_cases hc : c = 0
  · subst hc
    have hnone : ¬RoundRectArc fill x y w h 0 u v := fun harc => by
      have := harc.bounds le_rfl
      omega
    rw [roundRect_plain_multiplicity hw hh hx hy]
    refine if_congr ?_ rfl rfl
    rw [RoundRectHolds, or_iff_right hnone]
    refine and_congr_right fun hin => (and_iff_right ?_).symm
    rw [inBox_iff] at hin
    omega
  · have hstraights : multiplicity (roundRectStraights fill x y w h c) u v =
        if RoundRectStraight fill x y w h c u v then 1 else 0 := by
      cases fill with
      | true => exact roundRect_bands_multiplicity hx hy hcw hch u v (by omega)
      | false => exact roundRect_edges_multiplicity hx hy hcw hch u v (by omega)
    rw [roundRectCalls_eq _ _ _ _ _ hc]
    simp only [multiplicity_append]
    rw [roundRect_topLeft_multiplicity hx hy hcw hch, roundRect_topRight_multiplicity hx hy hcw hch,
      roundRect_bottomRight_multiplicity hx hy hcw hch, roundRect_bottomLeft_multiplicity hx hy hcw hch, hstraights]
    by_cases harc : RoundRectArc fill x y w h c u v
    · have hbounds := harc.bounds (by omega)
      dsimp only [offsetBeyond] at hbounds
      have hbeyond : ¬RoundRectStraight fill x y w h c u v := by
        rintro ⟨-, hspan, -⟩
        omega
      rw [if_neg hbeyond, if_pos (Or.inl harc)]
      simp only [and_iff_left harc]
      clear harc hbeyond
      split_ifs <;> omega
    · simp only [RoundRectHolds, harc, and_false, false_or, if_false, zero_add]

end

end Sys2Proof.Machine
end

section
/-! SUPPORT. The pixels of a rounded rectangle: inside the rectangle, the frame among the painted, and the painted rows
without holes (R119 (b), (c)). -/

namespace Sys2Proof.Machine

section
variable {fill : Bool} {x y w h c u v : Nat}

theorem inBox_of_roundRectArc (harc : RoundRectArc fill x y w h c u v) : inBox x y w h u v = true := by
  obtain ⟨⟨hu, hu'⟩, hv, hv'⟩ := harc.bounds (by omega)
  clear harc
  dsimp only [offsetBeyond] at hu hu' hv hv'
  rw [inBox_iff]
  omega

theorem inBox_of_roundRectHolds (hholds : RoundRectHolds fill x y w h c u v) : inBox x y w h u v = true :=
  hholds.elim inBox_of_roundRectArc And.left

/-- The frame is part of what is painted (R119 (c)). -/
theorem RoundRectHolds.painted (hframe : RoundRectHolds false x y w h c u v) : RoundRectHolds true x y w h c u v :=
  hframe.imp (fun harc => ⟨harc.1, harc.inside⟩) fun ⟨hin, hspan, _⟩ => ⟨hin, hspan, .inl rfl⟩

/-- Beyond both spans a rounded rectangle holds what its arc holds on the pixel's side. -/
theorem roundRectHolds_iff_arc {P : Prop} (hP : P)
    (hout : ¬(x + c ≤ u ∧ u + c < x + w ∨ y + c ≤ v ∧ v + c < y + h)) :
    RoundRectHolds fill x y w h c u v ↔ P ∧ RoundRectArc fill x y w h c u v :=
  ⟨fun hholds => ⟨hP, hholds.resolve_right fun ⟨_, hspan, _⟩ => hout hspan⟩, fun ⟨_, harc⟩ => .inl harc⟩

/-- In a span a rounded rectangle holds what the plain one does. -/
theorem roundRectHolds_iff_straight (hcw : 2 * c ≤ w) (hch : 2 * c ≤ h)
    (hspan : x + c ≤ u ∧ u + c < x + w ∨ y + c ≤ v ∧ v + c < y + h) : RoundRectHolds fill x y w h c u v ↔
      if fill = true then inBox x y w h u v = true else onBorder x y w h u v = true := by
  have hnone : ¬RoundRectArc fill x y w h c u v := fun harc => by
    obtain ⟨⟨hu, -⟩, hv, -⟩ := harc.bounds (by omega)
    clear harc
    dsimp only [offsetBeyond] at hu hv
    omega
  rw [RoundRectHolds, or_iff_right hnone, RoundRectStraight]
  cases fill <;> simp [hspan, onBorder_iff]

/-! ## The rows -/

/-- In a row, what is painted is so from the middle column outwards. -/
theorem RoundRectHolds.inward {u' : Nat} (hpaint : RoundRectHolds true x y w h c u' v) (hin : inBox x y w h u v = true)
    (hu : offsetBeyond (x + c) (x + w - 1 - c) u ≤ offsetBeyond (x + c) (x + w - 1 - c) u') :
    RoundRectHolds true x y w h c u v := by
  by_cases hspan : x + c ≤ u ∧ u + c < x + w ∨ y + c ≤ v ∧ v + c < y + h
  · exact .inr ⟨hin, hspan, .inl rfl⟩
  rw [inBox_iff] at hin
  have hbeyond : 1 ≤ offsetBeyond (x + c) (x + w - 1 - c) u ∧ 1 ≤ offsetBeyond (y + c) (y + h - 1 - c) v := by
    dsimp only [offsetBeyond]
    omega
  rcases hpaint with harc | ⟨-, hspan', -⟩
  · exact .inl ⟨hbeyond, harc.inside.column_mono hbeyond.2 (by omega) hu⟩
  · dsimp only [offsetBeyond] at hu
    omega

/-- In a row beyond its span the frame has an offset of the arc on either side, as far out as any inside it. -/
theorem exists_frame_beyond {a : Int} (hcw : 2 * c ≤ w) (ha : 1 ≤ a)
    (hv : 1 ≤ offsetBeyond (y + c) (y + h - 1 - c) v)
    (hinside : CornerInside c a (offsetBeyond (y + c) (y + h - 1 - c) v)) :
    ∃ e : Nat, a ≤ e ∧ e ≤ c ∧ RoundRectHolds false x y w h c (x + c - e) v ∧
      RoundRectHolds false x y w h c (x + w - 1 - c + e) v := by
  obtain ⟨e, hae, hec, hedge⟩ := (cornerInside_iff_exists_edge (by omega) hv ha).mp (cornerInside_comm.mp hinside)
  lift e to Nat using by omega
  obtain ⟨hleft, hright⟩ : offsetBeyond (x + c) (x + w - 1 - c) (x + c - e) = e ∧
      offsetBeyond (x + c) (x + w - 1 - c) (x + w - 1 - c + e) = e := by
    dsimp only [offsetBeyond]
    omega
  have harc : CornerHolds false c e (offsetBeyond (y + c) (y + h - 1 - c) v) :=
    ⟨⟨by omega, hv⟩, cornerEdge_comm.mp hedge⟩
  refine ⟨e, hae, by omega, .inl ?_, .inl ?_⟩
  · rwa [RoundRectArc, hleft]
  · rwa [RoundRectArc, hright]

/-- In a row of the span the frame has the rectangle's first and last column. -/
theorem roundRect_sides (hw : 1 ≤ w) (hv : y + c ≤ v ∧ v + c < y + h) :
    RoundRectHolds false x y w h c x v ∧ RoundRectHolds false x y w h c (x + w - 1) v := by
  have hside : ∀ u, u = x ∨ u = x + w - 1 → RoundRectHolds false x y w h c u v := fun u hu =>
    have hin : inBox x y w h u v = true := inBox_iff.mpr (by omega)
    .inr ⟨hin, .inr hv, .inr (onBorder_iff.mpr ⟨hin, by omega⟩)⟩
  exact ⟨hside _ (.inl rfl), hside _ (.inr rfl)⟩

/-- A painted pixel lies between two framed ones of its row. -/
theorem RoundRectHolds.exists_frame (hcw : 2 * c ≤ w) (hw : 1 ≤ w) (hpaint : RoundRectHolds true x y w h c u v) :
    ∃ u1 u2, u1 ≤ u ∧ u ≤ u2 ∧ RoundRectHolds false x y w h c u1 v ∧ RoundRectHolds false x y w h c u2 v := by
  have hbox := inBox_of_roundRectHolds hpaint
  have hin := inBox_iff.mp hbox
  by_cases hv : y + c ≤ v ∧ v + c < y + h
  · obtain ⟨hl, hr⟩ := roundRect_sides (x := x) hw hv
    exact ⟨x, x + w - 1, by omega, by omega, hl, hr⟩
  by_cases hcap : (x + c ≤ u ∧ u + c < x + w) ∧ (v = y ∨ v + 1 = y + h)
  · have hframe : RoundRectHolds false x y w h c u v :=
      .inr ⟨hbox, .inl hcap.1, .inr (onBorder_iff.mpr ⟨hbox, by omega⟩)⟩
    exact ⟨u, u, le_rfl, le_rfl, hframe, hframe⟩
  have hbeyond : 1 ≤ offsetBeyond (y + c) (y + h - 1 - c) v := by
    dsimp only [offsetBeyond]
    omega
  obtain ⟨a, ha, hua, hinside⟩ : ∃ a, 1 ≤ a ∧ offsetBeyond (x + c) (x + w - 1 - c) u ≤ a ∧
      CornerInside c a (offsetBeyond (y + c) (y + h - 1 - c) v) := by
    rcases hpaint with harc | ⟨-, hspan, -⟩
    · exact ⟨_, harc.1.1, le_rfl, harc.inside⟩
    · obtain ⟨hrow, hc⟩ : offsetBeyond (y + c) (y + h - 1 - c) v ≤ c ∧ 2 ≤ c := by
        dsimp only [offsetBeyond]
        omega
      exact ⟨1, le_rfl, by dsimp only [offsetBeyond]; omega,
        cornerInside_comm.mp (cornerInside_beside (by omega) (by omega) hrow)⟩
  obtain ⟨e, hae, hec, hl, hr⟩ := exists_frame_beyond hcw ha hbeyond hinside
  have hue := hua.trans hae
  dsimp only [offsetBeyond] at hue
  exact ⟨_, _, by omega, by omega, hl, hr⟩

/-- A painted row runs from the frame's leftmost to its rightmost pixel (R119 (c)). -/
theorem roundRect_row_iff (hcw : 2 * c ≤ w) (hw : 1 ≤ w) : RoundRectHolds true x y w h c u v ↔
    ∃ u1 u2, u1 ≤ u ∧ u ≤ u2 ∧ RoundRectHolds false x y w h c u1 v ∧ RoundRectHolds false x y w h c u2 v := by
  refine ⟨RoundRectHolds.exists_frame hcw hw, ?_⟩
  rintro ⟨u1, u2, hu1, hu2, hl, hr⟩
  have hlin := inBox_iff.mp (inBox_of_roundRectHolds hl)
  have hrin := inBox_iff.mp (inBox_of_roundRectHolds hr)
  have hin : inBox x y w h u v = true := inBox_iff.mpr (by omega)
  by_cases hside : offsetBeyond (x + c) (x + w - 1 - c) u ≤ offsetBeyond (x + c) (x + w - 1 - c) u1
  · exact hl.painted.inward hin hside
  · refine hr.painted.inward hin ?_
    dsimp only [offsetBeyond] at hside ⊢
    omega

end

end Sys2Proof.Machine
end

section
/-! SUPPORT. The commands FRAMERRECT and PAINTRRECT: on the display they draw inside their rectangle, and with a clamp
of 0 they are the plain ones (R115, R117, R118). -/

namespace Sys2Proof.Machine

/-- A command that draws a rectangle and stays in it, on the display: the rectangle is marked, and no pixel outside it
changes (R87). -/
theorem rectangle_draws_inside {s : State} {i : Instr} {calls : List SinkCall} {x y w h : Byte} (hfb : s.fb.wf = true)
    (hshape : shapeCalls s i = some (if w = 0 ∨ h = 0 then [] else calls)) (hlegal : i.legalOperands = true)
    (hmark : shapeMarked s i = s.markDirty x.int y.int w.int h.int) (hcursor : shapeCursor s i = (s.curx, s.cury))
    (hne : ¬(w = 0 ∨ h = 0)) (hx : x.toNat + w.toNat ≤ s.w) (hy : y.toNat + h.toNat ≤ s.h)
    (hin : ∀ c ∈ calls, c.within x.toNat y.toNat ((w.toNat : Int) - 1) ((h.toNat : Int) - 1)) :
    ∃ t, exec i s = .next t ∧
      t = { s with dx := t.dx, dy := t.dy, dw := t.dw, dh := t.dh, fb := t.fb,
                   cp := s.cp + BitVec.ofNat 16 i.length } ∧
      t.dirty = (s.markBox x y w h).dirty ∧
      ∀ u v, u < s.w → v < s.h → inBox x.toNat y.toNat w.toNat h.toNat u v = false → t.pixelAt u v = s.pixelAt u v := by
  have hcols := s.w_le
  have hrows := s.h_le
  obtain ⟨hw, hh⟩ := (nonempty_iff w h).mp hne
  obtain ⟨t, hexec, ht, hdirty, hpixel⟩ := rectangle_completes hfb hshape hlegal hmark hcursor hne hx hy hin
  refine ⟨t, hexec, ht, hdirty, fun u v hu hv hout => ?_⟩
  rw [Bool.eq_false_iff, ne_eq, inBox_iff] at hout
  rw [hpixel u v hu hv,
    multiplicity_eq_zero_of_within hin (by omega) (by omega) (by omega) (by omega) (by omega), blendBit_zero]

/-- A shape that completes as one command completes as a command of another length, but for `CP`. -/
theorem drawShape_completes {s t : State} {x y w h : Byte} {calls : List SinkCall} {n : Nat}
    (hexec : s.finish n (drawShape x y w h calls s) = .next t) (hf : t.fault = false) (k : Nat) :
    s.finish k (drawShape x y w h calls s) = .next { t with cp := s.cp + BitVec.ofNat 16 k } := by
  obtain ⟨u, hu, rfl⟩ := s.finish_completes _ _ t hexec hf
  obtain ⟨-, -, -, hcp, -, -⟩ := ((drawShape_answers x y w h calls s).ok hu).keeps
  rw [hu, ← hcp]
  rfl

theorem clampRadius_eq_zero {w h c : Byte} (hz : c = 0 ∨ w = 1 ∨ h = 1) :
    clampRadius w.toNat h.toNat c.toNat = 0 := by
  have hone : (1 : Byte).toNat = 1 := rfl
  unfold clampRadius
  rcases hz with rfl | rfl | rfl
  · exact Nat.zero_min _
  · omega
  · omega

/-- The radius enters through its clamp alone (R115). -/
theorem roundRect_congr (fill : Bool) (x y : Byte) {w h c c' : Byte}
    (hclamp : clampRadius w.toNat h.toNat c.toNat = clampRadius w.toNat h.toNat c'.toNat) (s : State) :
    roundRect fill x y w h c s = roundRect fill x y w h c' s := by
  rw [roundRect, roundRect, hclamp]

/-- With a radius of 0 the body is the plain rectangle's (R116). -/
theorem roundRect_eq_drawShape (fill : Bool) (x y : Byte) {w h c : Byte}
    (hz : clampRadius w.toNat h.toNat c.toNat = 0) (s : State) : roundRect fill x y w h c s = drawShape x y w h
      (if fill then paintBody x.int y.int w.toNat h.toNat else frameBody x.int y.int w.toNat h.toNat) s := by
  rw [roundRect, hz]
  rfl

end Sys2Proof.Machine
end

section
/-! PROOFS. The statements of `43_corner_roundrect.md`. -/

namespace Sys2Proof.Machine

/-- Settles O46: the walk passes each offset of the arc once, in the selected quadrants' boxes. -/
theorem cornersCoverTheirQuadrantsOnce : Obligations.CornersCoverTheirQuadrantsOnce := by
  refine ⟨fun cx cy r m hcx hcy hrange u v => ⟨?_, cornerCalls_inBoxes hcx hcy hrange⟩,
    fun cx cy r m hr => cornerCalls_eq_nil cx cy hr m⟩
  rw [cornerCalls_multiplicity (quadrantsFit_of_inRange hcx hcy hrange)]
  split <;> decide

/-- Settles O60: boundary and fill are the arc's edge and inside, which are symmetric and without holes. -/
theorem cornersFormArcs : Obligations.CornersFormArcs := by
  intro cx cy r q m hcx hcy hr hrange hq hm
  have hedge : ∀ {ex ey : Nat}, 1 ≤ ex ∧ ex ≤ r → 1 ≤ ey ∧ ey ≤ r → (_ ↔ CornerEdge r ex ey) :=
    fun hex hey => corner_boundary_iff hcx hcy hrange hq hm hex hey
  have hone := cornerEdge_radius_one (r := r) (by omega)
  refine ⟨(hedge (by omega) (by omega)).mpr hone, (hedge (by omega) (by omega)).mpr (cornerEdge_comm.mp hone),
    fun k hk hkr => ?_⟩
  obtain ⟨e, he, her, hke⟩ := (cornerInside_iff_exists_nat_edge (r := r) (b := 1) hk le_rfl).mp
    (cornerInside_beside (by omega) (by omega) (by omega))
  refine ⟨⟨e, he, her, (hedge (by omega) (by omega)).mpr hke⟩,
    ⟨e, he, her, (hedge (by omega) (by omega)).mpr (cornerEdge_comm.mp hke)⟩, fun j hj hjr => ⟨?_, ?_⟩⟩
  · exact (hedge (by omega) (by omega)).trans (cornerEdge_comm.trans (hedge (by omega) (by omega)).symm)
  · refine (corner_fill_iff hcx hcy hrange hq hm (by omega) (by omega)).trans
      ((cornerInside_iff_exists_nat_edge hk hj).trans ?_)
    exact exists_congr fun e => and_congr_right fun hje => and_congr_right fun her =>
      (hedge (by omega) (by omega)).symm

/-- Settles O47: small radii make no calls, and the calls of larger ones stay in the boxes, which lie on the display. -/
theorem cornerDrawsItsQuadrants : Obligations.CornerDrawsItsQuadrants := by
  intro s cx cy r m hfb hm hcond
  obtain ⟨hdom, hrange⟩ : (cornerCalls cx.int cy.int r.toNat m).all (SinkCall.inDomain s) = true ∧ ∀ u v,
      1 ≤ multiplicity (cornerCalls cx.int cy.int r.toNat m) u v →
        quadrantsInRange cx.toNat cy.toNat r.toNat m = true := by
    rcases hcond with hr | hdisplay
    · rw [cornerCalls_eq_nil _ _ (by omega)]
      exact ⟨rfl, fun u v hcov => by simp at hcov⟩
    · exact ⟨cornerCalls_inDomain hdisplay, fun _ _ _ => quadrantsInRange_of_onDisplay hdisplay⟩
  obtain ⟨hinside, -⟩ := shapeCommandsDrawTheirCalls s (.corner cx cy r m) _ hfb rfl (decide_eq_true hm)
  obtain ⟨t, hexec, ht, hdirty, -, hpixel⟩ := hinside hdom
  rw [shapeMarked_eq_markBoxes rfl] at hdirty
  refine ⟨t, hexec, ht, hdirty, fun u v hu hv hne => ?_⟩
  have hcov : 1 ≤ multiplicity (cornerCalls cx.int cy.int r.toNat m) u v := Nat.one_le_iff_ne_zero.mpr fun h0 =>
    hne ((hpixel u v hu hv).trans (h0 ▸ blendBit_zero ..))
  exact cornerCalls_inBoxes (Nat.le_of_lt_succ cx.isLt) (Nat.le_of_lt_succ cy.isLt) (hrange u v hcov) hcov

/-- Settles O48: the radius enters through its clamp alone, and a clamp of 0 gives the plain body. -/
theorem radiusIsClamped : Obligations.RadiusIsClamped := by
  have hclamp : ∀ (s : State) (x y w h c c' : Byte),
      clampRadius w.toNat h.toNat c.toNat = clampRadius w.toNat h.toNat c'.toNat →
      exec (.framerrect x y w h c) s = exec (.framerrect x y w h c') s ∧
      exec (.paintrrect x y w h c) s = exec (.paintrrect x y w h c') s := fun s x y w h c c' hcc =>
    ⟨congrArg (s.finish 6) (roundRect_congr false x y hcc s), congrArg (s.finish 6) (roundRect_congr true x y hcc s)⟩
  refine ⟨hclamp, fun s x y => hclamp s x y 20 10 100 5 (by decide), fun s t x y w h c hz => ⟨?_, ?_⟩⟩
  · intro hexec hf
    exact (congrArg (s.finish 6) (roundRect_eq_drawShape false x y (clampRadius_eq_zero hz) s)).trans
      (drawShape_completes hexec hf 6)
  · intro hexec hf
    exact (congrArg (s.finish 6) (roundRect_eq_drawShape true x y (clampRadius_eq_zero hz) s)).trans
      (drawShape_completes hexec hf 6)

/-- Settles O49: the calls of a rounded rectangle lie in its rectangle. -/
theorem roundRectsDrawInsideTheirRectangle : Obligations.RoundRectsDrawInsideTheirRectangle := by
  intro s x y w h c hfb hw hh hx hy
  have hne := not_or.mpr ⟨hw, hh⟩
  obtain ⟨hw1, hh1⟩ := (nonempty_iff w h).mp hne
  obtain ⟨hcw, hch⟩ := two_mul_clampRadius_le w.toNat h.toNat c.toNat
  exact ⟨rectangle_draws_inside (i := .framerrect x y w h c) hfb rfl rfl rfl rfl hne hx hy
      fun _ hc => roundRectCalls_within hw1 hh1 hcw hch hc,
    rectangle_draws_inside (i := .paintrrect x y w h c) hfb rfl rfl rfl rfl hne hx hy
      fun _ hc => roundRectCalls_within hw1 hh1 hcw hch hc⟩

/-- Settles O50: a pixel is held by the arc beyond both spans, or by the straight parts, and covered once. -/
theorem roundRectsCoverOnce : Obligations.RoundRectsCoverOnce := by
  intro x y w h corner u v hw hh hx hy
  obtain ⟨hcw, hch⟩ := two_mul_clampRadius_le w h corner
  generalize clampRadius w h corner = c at hcw hch
  dsimp only
  have hcover : ∀ (fill : Bool) (u v : Nat), multiplicity (roundRectCalls fill x y w h c) u v =
      if RoundRectHolds fill x y w h c u v then 1 else 0 :=
    fun fill u v => roundRectCalls_multiplicity hx hy hcw hch u v hw hh fill
  simp only [hcover, one_le_ite_iff]
  refine ⟨fun fill => ⟨by split <;> decide, inBox_of_roundRectHolds, ?_, ?_, ?_, ?_,
    roundRectHolds_iff_straight hcw hch⟩, RoundRectHolds.painted, roundRect_row_iff hcw hw⟩
  · rw [roundRect_topLeft_multiplicity hx hy hcw hch]
    exact fun hu hv => if_congr (roundRectHolds_iff_arc ⟨hu, hv⟩ (by omega)) rfl rfl
  · rw [roundRect_topRight_multiplicity hx hy hcw hch]
    exact fun hu hv => if_congr (roundRectHolds_iff_arc ⟨hu, hv⟩ (by omega)) rfl rfl
  · rw [roundRect_bottomRight_multiplicity hx hy hcw hch]
    exact fun hu hv => if_congr (roundRectHolds_iff_arc ⟨hu, hv⟩ (by omega)) rfl rfl
  · rw [roundRect_bottomLeft_multiplicity hx hy hcw hch]
    exact fun hu hv => if_congr (roundRectHolds_iff_arc ⟨hu, hv⟩ (by omega)) rfl rfl

end Sys2Proof.Machine
end

section
/-! SUPPORT. Measuring text (R121 to R123): the width of a code, the sum over a string, and the fault they raise. -/

namespace Sys2Proof.Machine

/-- The width of a glyph lookup's answer: the advance, or 0 where there is no glyph (R121). -/
def glyphAdvance (g? : Option Glyph) : Byte := g?.elim 0 Glyph.xAdvance

theorem widthOf_eq_map (s : State) (c : Byte) : widthOf s c = (s.glyph c).map fun g? => (glyphAdvance g?).toNat := by
  unfold widthOf
  cases s.glyph c with
  | error k => rfl
  | ok g? => cases g? <;> rfl

theorem widthSum_cons (s : State) (sum : Nat) (c : Byte) (rest : List Byte) :
    widthSum s sum (c :: rest) = widthOf s c >>= fun n => widthSum s (sum + n) rest := by
  rw [widthSum]
  cases widthOf s c <;> rfl

theorem exec_widthc (c : Byte) (s : State) :
    exec (.widthc c) s = s.finish 2 ((widthOf s c).map fun n => s.setRes (BitVec.ofNat 16 n)) := by
  change execWidthc c s = _
  unfold execWidthc
  cases widthOf s c <;> rfl

theorem exec_widths (codes : List Byte) (s : State) : exec (.widths codes) s =
    s.finish (2 + codes.length) ((widthSum s 0 codes).map fun n => s.setRes (BitVec.ofNat 16 n)) := by
  change execWidths codes s = _
  unfold execWidths
  cases widthSum s 0 codes <;> rfl

/-- A lookup that fails has left `FM` (R51, R52). -/
theorem State.glyph_error {s : State} {c : Byte} {k : FaultCode} (h : s.glyph c = .error k) : k = .fontRange := by
  have hanswers : Answers (· = .fontRange) (fun _ => True) (s.glyph c) := by
    unfold State.glyph
    split
    · refine (s.fontByte_reads 0).bind fun first _ => (s.fontByte_reads 1).bind fun last _ => ?_
      split
      · trivial
      · exact (s.glyphEntry_reads _).bind fun _ _ => trivial
    · trivial
  exact hanswers.error h

/-- Codes that all have a width have the sum of their widths (R123). -/
theorem widthSum_of_widths {s : State} {codes : List Byte} {width : Byte → Nat}
    (h : ∀ c ∈ codes, widthOf s c = .ok (width c)) (sum : Nat) :
    widthSum s sum codes = .ok (sum + (codes.map width).sum) := by
  induction codes generalizing sum with
  | nil => rfl
  | cons c rest ih =>
    obtain ⟨hc, hrest⟩ := List.forall_mem_cons.mp h
    rw [widthSum_cons, hc, List.map_cons, List.sum_cons, ← Nat.add_assoc]
    exact ih hrest _

/-- The sum fails at the first code whose lookup leaves `FM` (R123). -/
theorem widthSum_of_glyph_error {s : State} {codes : List Byte} {c : Byte} (hc : c ∈ codes)
    (h : s.glyph c = .error .fontRange) (sum : Nat) : widthSum s sum codes = .error .fontRange := by
  induction codes generalizing sum with
  | nil => cases hc
  | cons d rest ih =>
    rw [widthSum_cons, widthOf_eq_map]
    cases hd : s.glyph d with
    | error k => rw [State.glyph_error hd]; rfl
    | ok g? =>
      have hne : c ≠ d := fun heq => by simp [← heq, h] at hd
      exact ih ((List.mem_cons.mp hc).resolve_left hne) _

/-- The widths depend on the font alone. -/
theorem widthSum_congr {s t : State} (h : t.glyph = s.glyph) (sum : Nat) (codes : List Byte) :
    widthSum t sum codes = widthSum s sum codes := by
  induction codes generalizing sum with
  | nil => rfl
  | cons c rest ih => simp only [widthSum_cons, widthOf_eq_map, h, ih]

end Sys2Proof.Machine
end

section
/-! PROOFS. Measuring text, `44_text.md`. -/

namespace Sys2Proof.Machine

/-- Settles O52: the width of a code is its glyph's advance or 0, and a width is at most 255. -/
theorem widthsReportTheAdvances : Obligations.WidthsReportTheAdvances := by
  intro s c codes
  refine ⟨fun h => ?_, fun g h => ?_, fun h => ?_, fun width hwidth => ⟨?_, fun hlen => ?_⟩, fun ⟨d, hd, herr⟩ => ?_⟩
  · rw [exec_widthc, widthOf_eq_map, h]
    rfl
  · rw [exec_widthc, widthOf_eq_map, h, ← BitVec.ofNat_toNat]
    rfl
  · refine raisesFault_of_error (len := 2) ?_
    rw [exec_widthc, widthOf_eq_map, h]
    rfl
  · have hcodes : ∀ d ∈ codes, widthOf s d = .ok (width d) := fun d hd => by
      obtain ⟨hg, hw⟩ | ⟨g, hg, hw⟩ := hwidth d hd <;> rw [widthOf_eq_map, hg, hw] <;> rfl
    rw [exec_widths, widthSum_of_widths hcodes, Nat.zero_add]
    rfl
  · have hbyte : ∀ n ∈ codes.map width, n ≤ 255 := List.forall_mem_map.mpr fun d hd => by
      obtain ⟨-, hw⟩ | ⟨g, -, hw⟩ := hwidth d hd
      · omega
      · have := g.xAdvance.isLt
        omega
    calc (codes.map width).sum
      _ ≤ (codes.map width).length * 255 := List.sum_le_card_nsmul _ _ hbyte
      _ ≤ 255 * 255 := Nat.mul_le_mul_right _ (by rwa [List.length_map])
  · refine raisesFault_of_error (len := 2 + codes.length) ?_
    rw [exec_widths, widthSum_of_glyph_error hd herr]
    rfl

end Sys2Proof.Machine
end

section
/-! SUPPORT. Drawing a glyph (R124): the cells of its box in row-major order decide whether it faults (R136), and one
that does not is its set bits' sink calls. -/

namespace Sys2Proof.Machine

/-- The cell of glyph `g` that comes `k`-th in row-major order, as `(column, row)`. -/
def glyphCell (g : Glyph) (k : Nat) : Nat × Nat := (k % g.width, k / g.width)

/-- The fault of the first cell of glyph `g` that offends, where the glyph is drawn at the cursor (R136). -/
def State.glyphFault (s : State) (g : Glyph) : Option FaultCode :=
  (List.range (g.width * g.height)).findSome? (s.cellFault g)

/-- Glyph `g` drawn at the cursor without a fault: its box marked, the masks of its pixels applied, `CURX` advanced. -/
def State.withGlyph (s : State) (g : Glyph) : State :=
  ((s.markDirty (s.glyphOrigin g).1.int (s.glyphOrigin g).2.int g.width g.height).setFb
    (applyMasks s.mode ((s.glyphPixels g).flatMap (SinkCall.writes s)) s.fb)).setCursor (s.curx + g.xAdvance) s.cury

/-- The walk of R124 passes the cells in row-major order. -/
theorem boxCells_eq_map (g : Glyph) :
    boxCells g.width g.height = (List.range (g.width * g.height)).map (glyphCell g) := by
  generalize g.height = h
  induction h with
  | zero => rfl
  | succ h ih =>
    have hrow : (List.range g.width).map (fun c => (c, h)) =
        (List.range g.width).map (glyphCell g ∘ fun c => g.width * h + c) := by
      refine List.map_congr_left fun c hc => ?_
      have hcw := List.mem_range.mp hc
      simp [glyphCell, Nat.mul_add_div (Nat.zero_lt_of_lt hcw), Nat.mod_eq_of_lt hcw, Nat.div_eq_of_lt hcw]
    rw [Nat.mul_succ, List.range_add, List.map_append, List.map_map, ← hrow, ← ih]
    simp [boxCells, List.range_succ]

/-- The bit of the `k`-th cell is the `k`-th of the glyph's bitmap. -/
theorem glyphCell_bit (g : Glyph) (k : Nat) :
    g.bitmapOffset + (glyphCell g k).2 * g.width + (glyphCell g k).1 = g.bitmapOffset + k := by
  rw [Nat.add_assoc]
  exact congrArg _ (Nat.div_add_mod' k g.width)

/-- A bit of the bitmap is readable where `BM` has its byte (R53). -/
theorem State.bitmapBit_readable_iff {s : State} {k : Nat} : (∃ bit, s.bitmapBit k = .ok bit) ↔ k < 8 * s.bm.size := by
  have hbyte : k / 8 < s.bm.size ↔ k < 8 * s.bm.size := by omega
  rw [← hbyte]
  by_cases h : k / 8 < s.bm.size
  · exact iff_of_true ⟨_, State.bitmapBit_of_read (if_pos h)⟩ h
  · refine iff_of_false (fun ⟨bit, hbit⟩ => ?_) h
    rw [State.bitmapBit_of_read_none (if_neg h)] at hbit
    cases hbit

theorem State.glyphBit_of_bitmapBit {s : State} {g : Glyph} {c r : Nat} {bit : Bool}
    (h : s.bitmapBit (g.bitmapOffset + r * g.width + c) = .ok bit) : s.glyphBit g c r = bit := by
  rw [State.glyphBit, h]

theorem State.glyphFault_eq_none_iff {s : State} {g : Glyph} :
    s.glyphFault g = none ↔ ∀ k < g.width * g.height, s.cellFault g k = none := by
  simp only [State.glyphFault, List.findSome?_eq_none_iff, List.mem_range]

/-- A glyph's fault is that of its first cell, in row-major order, that has one. -/
theorem State.glyphFault_eq_some {s : State} {g : Glyph} {code : FaultCode} (h : s.glyphFault g = some code) :
    ∃ k < g.width * g.height, s.cellFault g k = some code ∧ ∀ j < k, s.cellFault g j = none := by
  obtain ⟨before, k, after, hsplit, hk, hbefore⟩ := List.findSome?_eq_some_iff.mp h
  have hlt : k < g.width * g.height := List.mem_range.mp (hsplit ▸ by simp)
  have hsorted : (before ++ k :: after).Pairwise (· < ·) := hsplit ▸ List.pairwise_lt_range
  obtain ⟨-, hafter, -⟩ := List.pairwise_append.mp hsorted
  refine ⟨k, hlt, hk, fun j hj => hbefore j ?_⟩
  have hmem : j ∈ before ++ k :: after := hsplit ▸ List.mem_range.mpr (hj.trans hlt)
  refine (List.mem_append.mp hmem).resolve_right fun hge => ?_
  rcases List.mem_cons.mp hge with rfl | hge
  · exact Nat.lt_irrefl _ hj
  · obtain ⟨hlater, -⟩ := List.pairwise_cons.mp hafter
    exact Nat.lt_asymm hj (hlater j hge)

/-- The pixels of a glyph, cell by cell. -/
theorem State.glyphPixels_eq (s : State) (g : Glyph) : s.glyphPixels g =
    (((List.range (g.width * g.height)).map (glyphCell g)).filter fun cr => s.glyphBit g cr.1 cr.2).map fun cr =>
      .pixel ((s.glyphOrigin g).1.int + cr.1) ((s.glyphOrigin g).2.int + cr.2) := by
  rw [State.glyphPixels, boxCells_eq_map]

/-- The calls of a glyph are on the display where the pixels of its set bits are. -/
theorem State.glyphPixels_inDomain_iff {s : State} {g : Glyph} :
    (s.glyphPixels g).all (SinkCall.inDomain s) = true ↔ ∀ k < g.width * g.height,
      s.bitmapBit (g.bitmapOffset + k) = .ok true → (SinkCall.pixel ((s.glyphOrigin g).1.int + (k % g.width : Nat))
        ((s.glyphOrigin g).2.int + (k / g.width : Nat))).inDomain s = true := by
  have hbit : ∀ k, s.glyphBit g (k % g.width) (k / g.width) = true ↔ s.bitmapBit (g.bitmapOffset + k) = .ok true := by
    intro k
    rw [State.glyphBit, show g.bitmapOffset + k / g.width * g.width + k % g.width = _ from glyphCell_bit g k]
    cases s.bitmapBit (g.bitmapOffset + k) <;> simp
  simp only [s.glyphPixels_eq, glyphCell, List.all_map, List.all_filter, List.all_eq_true, List.mem_range,
    Function.comp_apply, Bool.or_eq_true, Bool.not_eq_true', ← Bool.not_eq_true, ← imp_iff_not_or]
  exact forall₂_congr fun k _ => imp_congr_left (hbit k)

/-- A glyph's bits lie in `BM` where the bit of every cell is readable (R53). -/
theorem State.glyphBits_readable_iff {s : State} {g : Glyph} :
    (g.width = 0 ∨ g.height = 0) ∨ g.bitmapOffset + g.width * g.height ≤ 8 * s.bm.size ↔
      ∀ k < g.width * g.height, ∃ bit, s.bitmapBit (g.bitmapOffset + k) = .ok bit := by
  simp only [State.bitmapBit_readable_iff, ← Nat.mul_eq_zero]
  refine ⟨fun h k hk => by omega, fun h => ?_⟩
  by_contra hout
  have := h (g.width * g.height - 1) (by omega)
  omega

/-- A glyph fits exactly where none of its cells offends (R150 (d), R136). -/
theorem State.glyphFits_iff {s : State} {g : Glyph} : s.glyphFits g = true ↔ s.glyphFault g = none := by
  simp only [State.glyphFits, Bool.and_eq_true, Bool.or_eq_true, decide_eq_true_eq, State.glyphBits_readable_iff,
    State.glyphPixels_inDomain_iff, State.glyphFault_eq_none_iff, State.cellFault_eq_none]
  refine ⟨fun ⟨hread, hdom⟩ k hk => ?_, fun h => ⟨fun k hk => ?_, fun k hk hset => ?_⟩⟩
  · obtain ⟨bit, hbit⟩ := hread k hk
    exact ⟨bit, hbit, fun hset => hdom k hk (hset ▸ hbit)⟩
  · obtain ⟨bit, hbit, -⟩ := h k hk
    exact ⟨bit, hbit⟩
  · obtain ⟨bit, hbit, hdom⟩ := h k hk
    exact hdom (Except.ok.inj (hbit.symm.trans hset))

/-! ## The blit -/

/-- A cell that offends ends the blit with its fault (R136). -/
theorem blitCells_cons_of_fault {s : State} {g : Glyph} {k : Nat} {code : FaultCode} (h : s.cellFault g k = some code)
    (rest : List (Nat × Nat)) :
    blitCells g (s.glyphOrigin g).1 (s.glyphOrigin g).2 (glyphCell g k :: rest) s = .error code := by
  rw [blitCells, glyphCell_bit]
  unfold State.cellFault at h
  split at h
  · rename_i e he
    rw [he]
    exact congrArg Except.error (Option.some.inj h)
  · rename_i bit hbit
    simp only [Option.ite_none_right_eq_some, Bool.and_eq_true, Bool.not_eq_true'] at h
    obtain ⟨⟨rfl, hdom⟩, hcode⟩ := h
    obtain rfl := Option.some.inj hcode
    simp only [hbit, glyphCell, SinkCall.run_outside _ s hdom]

/-- A cell that does not offend lets the blit go on, with nothing changed but `FB`. -/
theorem blitCells_cons_of_clean {s : State} {g : Glyph} {k : Nat} (h : s.cellFault g k = none)
    (rest : List (Nat × Nat)) :
    ∃ m, blitCells g (s.glyphOrigin g).1 (s.glyphOrigin g).2 (glyphCell g k :: rest) s =
      blitCells g (s.glyphOrigin g).1 (s.glyphOrigin g).2 rest (s.setFb m) := by
  rw [blitCells, glyphCell_bit]
  obtain ⟨bit, hbit, hdom⟩ := (s.cellFault_eq_none g k).mp h
  rw [hbit]
  cases bit with
  | false => exact ⟨s.fb, rfl⟩
  | true =>
    simp only [glyphCell, SinkCall.run_inside _ s (hdom rfl)]
    exact ⟨_, rfl⟩

/-- A blit fails as its first offending cell does (R136). -/
theorem blitCells_of_fault {s : State} {g : Glyph} {ks : List Nat} {code : FaultCode}
    (h : ks.findSome? (s.cellFault g) = some code) :
    blitCells g (s.glyphOrigin g).1 (s.glyphOrigin g).2 (ks.map (glyphCell g)) s = .error code := by
  induction ks generalizing s with
  | nil => cases h
  | cons k rest ih =>
    rw [List.map_cons]
    cases hk : s.cellFault g k with
    | some e =>
      rw [List.findSome?_cons_of_isSome (by simp [hk]), hk] at h
      exact Option.some.inj h ▸ blitCells_cons_of_fault hk _
    | none =>
      rw [List.findSome?_cons_of_isNone (by simp [hk])] at h
      obtain ⟨m, hm⟩ := blitCells_cons_of_clean hk (rest.map (glyphCell g))
      rw [hm]
      exact ih (s := s.setFb m) h

/-- The blit of a glyph without an offending cell is the sink calls of its pixels, which do not fault. -/
theorem blitCells_of_no_fault {s : State} {g : Glyph} (h : s.glyphFault g = none) :
    blitCells g (s.glyphOrigin g).1 (s.glyphOrigin g).2 (boxCells g.width g.height) s =
      .ok (s.setFb (applyMasks s.mode ((s.glyphPixels g).flatMap (SinkCall.writes s)) s.fb)) := by
  have hread : ∀ cr ∈ boxCells g.width g.height,
      s.bitmapBit (g.bitmapOffset + cr.2 * g.width + cr.1) = .ok (s.glyphBit g cr.1 cr.2) := by
    rw [boxCells_eq_map, List.forall_mem_map]
    intro k hk
    obtain ⟨bit, hbit, -⟩ := (s.cellFault_eq_none g k).mp (State.glyphFault_eq_none_iff.mp h k (List.mem_range.mp hk))
    rw [← glyphCell_bit] at hbit
    rw [State.glyphBit_of_bitmapBit hbit, hbit]
  obtain ⟨-, hdom⟩ := (Bool.and_eq_true _ _).mp (State.glyphFits_iff.mpr h)
  exact (blitCells_readable g _ _ _ _ s hread).trans ((runSinks_eq _ s).trans (if_pos hdom))

theorem State.markDirty_eq (s : State) (l t w h : Int) : ∃ x y a b, s.markDirty l t w h = s.setDirty x y a b :=
  s.markBox_eq ..

/-- Drawing a glyph: its first offending cell's fault, or the glyph drawn (R124, R136). -/
theorem drawGlyph_eq (g : Glyph) (s : State) :
    drawGlyph g s = (s.glyphFault g).elim (.ok (s.withGlyph g)) .error := by
  obtain ⟨x, y, w, h, hmark⟩ := s.markDirty_eq (s.glyphOrigin g).1.int (s.glyphOrigin g).2.int g.width g.height
  rw [drawGlyph_eq_bind, State.withGlyph, hmark]
  cases hfault : s.glyphFault g with
  | some code =>
    have hblit := blitCells_of_fault (s := s.setDirty x y w h) hfault
    rw [← boxCells_eq_map] at hblit
    exact congrArg (· >>= _) hblit
  | none => exact congrArg (· >>= _) (blitCells_of_no_fault (s := s.setDirty x y w h) hfault)

end Sys2Proof.Machine
end

section
/-! SUPPORT. The commands DRAWCHAR and DRAWSTR: their effects do not read `CP`, and what they draw depends on the font and
the cursor alone (R124, R125). -/

namespace Sys2Proof.Machine

theorem drawChar_of_no_glyph {s : State} {c : Byte} (h : s.glyph c = .ok none) : drawChar c s = .ok s := by
  rw [drawChar, h]

theorem drawChar_of_glyph {s : State} {c : Byte} {g : Glyph} (h : s.glyph c = .ok (some g)) :
    drawChar c s = (s.glyphFault g).elim (.ok (s.withGlyph g)) .error := by
  rw [drawChar, h]
  exact drawGlyph_eq g s

theorem drawChar_of_glyph_error {s : State} {c : Byte} {k : FaultCode} (h : s.glyph c = .error k) :
    drawChar c s = .error k := by
  rw [drawChar, h]

theorem drawChar_of_fits {s : State} {c : Byte} {g : Glyph} (h : s.glyph c = .ok (some g))
    (hfits : s.glyphFits g = true) : drawChar c s = .ok (s.withGlyph g) := by
  rw [drawChar_of_glyph h, State.glyphFits_iff.mp hfits]
  rfl

theorem State.withGlyph_eq_setDirty (s : State) (g : Glyph) : ∃ x y w h, s.withGlyph g =
    ((s.setDirty x y w h).setFb (applyMasks s.mode ((s.glyphPixels g).flatMap (SinkCall.writes s)) s.fb)).setCursor
      (s.curx + g.xAdvance) s.cury := by
  obtain ⟨x, y, w, h, hmark⟩ := s.markDirty_eq (s.glyphOrigin g).1.int (s.glyphOrigin g).2.int g.width g.height
  exact ⟨x, y, w, h, by rw [State.withGlyph, hmark]⟩

/-- Drawing a glyph changes the dirty rectangle, `CURX` and `FB` (R124). -/
theorem State.withGlyph_eq (s : State) (g : Glyph) : s.withGlyph g = { s with
    dx := (s.withGlyph g).dx, dy := (s.withGlyph g).dy, dw := (s.withGlyph g).dw, dh := (s.withGlyph g).dh,
    curx := s.curx + g.xAdvance, fb := (s.withGlyph g).fb } := by
  obtain ⟨x, y, w, h, heq⟩ := s.withGlyph_eq_setDirty g
  rw [heq]
  rfl

/-- A glyph that fits leaves each pixel as the number of its set bits there says (R48). -/
theorem State.withGlyph_pixelAt {s : State} {g : Glyph} (hfb : s.fb.wf = true) (hfits : s.glyphFits g = true)
    {u v : Nat} (hu : u < s.w) (hv : v < s.h) :
    (s.withGlyph g).pixelAt u v = blendBit s.mode (s.pixelAt u v) (multiplicity (s.glyphPixels g) u v) := by
  obtain ⟨x, y, w, h, heq⟩ := s.withGlyph_eq_setDirty g
  obtain ⟨-, hdom⟩ := (Bool.and_eq_true _ _).mp hfits
  rw [heq, ← pixelAt_setFb_of_calls hfb hdom hu hv]
  rfl

theorem State.withGlyph_read {s : State} {g : Glyph} {a : Nat} (ha : a ∉ storedAddresses s (s.glyphPixels g)) :
    (s.withGlyph g).fb.read a = s.fb.read a :=
  applyMasks_read_of_not_stored ha

/-- Reduction to a byte is reduction `mod 256` (R14). -/
theorem int_wrap8 (a : Int) : (wrap8 a).int = a % 256 := by
  rw [Byte.int, wrap8_toNat]
  omega

theorem State.withGlyph_dirty (s : State) (g : Glyph) : (s.withGlyph g).dirty =
    (s.markDirty ((s.curx.toNat + g.xOffset) % 256) ((s.cury.toNat + g.yOffset) % 256) g.width g.height).dirty := by
  rw [State.withGlyph, State.glyphOrigin, int_wrap8, int_wrap8]
  rfl

/-! ## `CP` is not read -/

theorem State.markDirty_advance (s : State) (n : Nat) (l t w h : Int) :
    (s.advance n).markDirty l t w h = (s.markDirty l t w h).advance n := by
  simp only [State.markDirty, State.markBox, State.advance_dw, State.advance_dh, apply_ite (State.advance · n)]
  rfl

theorem State.withGlyph_advance (s : State) (g : Glyph) (n : Nat) :
    (s.advance n).withGlyph g = (s.withGlyph g).advance n := by
  rw [State.withGlyph, State.markDirty_advance]
  rfl

theorem drawChar_advance (c : Byte) (s : State) (n : Nat) :
    drawChar c (s.advance n) = (drawChar c s).map (State.advance · n) := by
  have hglyph : (s.advance n).glyph c = s.glyph c := rfl
  cases h : s.glyph c with
  | error k => rw [drawChar_of_glyph_error h, drawChar_of_glyph_error (hglyph.trans h)]; rfl
  | ok g? =>
    cases g? with
    | none => rw [drawChar_of_no_glyph h, drawChar_of_no_glyph (hglyph.trans h)]; rfl
    | some g =>
      rw [drawChar_of_glyph h, drawChar_of_glyph (hglyph.trans h), State.withGlyph_advance,
        show (s.advance n).glyphFault g = s.glyphFault g from rfl]
      cases s.glyphFault g <;> rfl

theorem drawString_advance (codes : List Byte) (s : State) (n : Nat) :
    drawString codes (s.advance n) = (drawString codes s).map (State.advance · n) := by
  induction codes generalizing s with
  | nil => rfl
  | cons c rest ih =>
    rw [drawString_cons, drawString_cons, drawChar_advance]
    cases drawChar c s with
    | error k => rfl
    | ok t => exact ih t

/-! ## The characters one by one -/

theorem drawEach_cons_of_ok {s t : State} {c : Byte} (h : drawChar c s = .ok t) (hf : t.fault = false)
    (rest : List Byte) : drawEach (c :: rest) s = drawEach rest (t.advance 2) := by
  have hexec : exec (.drawchar c) s = .next (t.advance 2) := congrArg (s.finish 2) h
  simp [drawEach, hexec, hf]

theorem drawEach_cons_of_error {s : State} {c : Byte} {k : FaultCode} (h : drawChar c s = .error k)
    (rest : List Byte) : drawEach (c :: rest) s = .next (s.takeFault k) := by
  have hexec : exec (.drawchar c) s = .next (s.takeFault k) := congrArg (s.finish 2) h
  simp [drawEach, hexec]

theorem Answers.of_map {α β : Type} {E : FaultCode → Prop} {P : β → Prop} {r : Except FaultCode α} {f : α → β}
    (h : Answers E P (r.map f)) : Answers E (fun a => P (f a)) r := by
  cases r <;> exact h

/-- The commands of a string's characters complete as the string does, but for `CP`, and fault as it does (R125). -/
theorem drawEach_answers {s : State} (codes : List Byte) (hf : s.fault = false) :
    Answers (fun k => ∃ t, drawEach codes s = .next t ∧ t.fault = true ∧ t.fcode = k.code)
      (fun u => ∃ p, drawEach codes s = .next { u with cp := p }) (drawString codes s) := by
  induction codes generalizing s with
  | nil => exact ⟨s.cp, rfl⟩
  | cons c rest ih =>
    rw [drawString_cons]
    cases h : drawChar c s with
    | error k => exact ⟨s.takeFault k, drawEach_cons_of_error h rest, s.takeFault_fault k, s.takeFault_fcode k⟩
    | ok t =>
      obtain ⟨cx, hdraw⟩ := (drawChar_answers c s).ok h
      obtain ⟨-, -, -, -, hfault, -⟩ := hdraw.keeps
      have hrest := ih (s := t.advance 2) (hfault.trans hf)
      rw [drawString_advance] at hrest
      rw [drawEach_cons_of_ok h (hfault.trans hf)]
      exact hrest.of_map

end Sys2Proof.Machine
end

section
/-! PROOFS. DRAWCHAR, and DRAWSTR as its characters. -/

namespace Sys2Proof.Machine

/-- Settles O53: the blit is the sink calls of the set bits, or the fault of the first cell that offends. -/
theorem drawcharBlitsTheGlyph : Obligations.DrawcharBlitsTheGlyph := by
  intro s c hfb
  refine ⟨fun h => congrArg (s.finish 2) (drawChar_of_no_glyph h),
    fun h => raisesFault_of_error (len := 2) (congrArg (s.finish 2) (drawChar_of_glyph_error h)),
    fun g h => ⟨fun hfits => ?_, fun hfits => ?_⟩⟩
  · exact ⟨_, congrArg (s.finish 2) (drawChar_of_fits h hfits), congrArg (State.advance · 2) (s.withGlyph_eq g),
      s.withGlyph_dirty g, fun a ha => State.withGlyph_read ha,
      fun u v hu hv => State.withGlyph_pixelAt hfb hfits hu hv⟩
  · obtain ⟨code, hcode⟩ := Option.ne_none_iff_exists'.mp fun hnone =>
      Bool.eq_false_iff.mp hfits (State.glyphFits_iff.mpr hnone)
    obtain ⟨k, hk, hoffence, hfirst⟩ := State.glyphFault_eq_some hcode
    refine ⟨k, code, hk, hoffence, hfirst, raisesFault_of_error (len := 2) (congrArg (s.finish 2) ?_)⟩
    rw [drawChar_of_glyph h, hcode]
    rfl

/-- Settles O54: a character's command is the effect of the character and a move of `CP`, which no character reads. -/
theorem drawstrIsItsCharacters : Obligations.DrawstrIsItsCharacters := by
  intro s codes hf
  have heach := drawEach_answers codes hf
  cases h : drawString codes s with
  | ok u =>
    obtain ⟨cx, hdraw⟩ := (drawString_answers codes s).ok h
    obtain ⟨-, -, -, hcp, hfault, -⟩ := hdraw.keeps
    obtain ⟨p, heach⟩ := heach.ok h
    refine ⟨_, heach, fun _ => ?_, fun hfaulted => ?_⟩
    · rw [← hcp]
      exact congrArg (s.finish (2 + codes.length)) h
    · simp [hfault, hf] at hfaulted
  | error k =>
    obtain ⟨t, heach, hfault, hcode⟩ := heach.error h
    refine ⟨t, heach, fun hnone => ?_, fun _ => ?_⟩
    · simp [hfault] at hnone
    · rw [hcode]
      exact raisesFault_of_error (congrArg (s.finish (2 + codes.length)) h)

end Sys2Proof.Machine
end

section
/-! SUPPORT. A string of glyphs that fit (R125, R150 (d)): where each is drawn, and the advances it adds up (R126). -/

namespace Sys2Proof.Machine

theorem State.withGlyph_faultView (s : State) (g : Glyph) :
    (s.withGlyph g).faultView = s.faultView.setCursor (s.curx + g.xAdvance) s.cury := by
  obtain ⟨x, y, w, h, heq⟩ := s.withGlyph_eq_setDirty g
  rw [heq]
  rfl

theorem storedAddresses_append (s : State) (xs ys : List SinkCall) :
    storedAddresses s (xs ++ ys) = storedAddresses s xs ++ storedAddresses s ys :=
  List.flatMap_append

section
variable {s s' : State} (h : s.faultView = s'.faultView) (g : Glyph)
include h

theorem glyphPixels_eq_of_faultView : s.glyphPixels g = s'.glyphPixels g := by
  change s.faultView.glyphPixels g = _
  rw [h]
  rfl

theorem glyphFits_eq_of_faultView : s.glyphFits g = s'.glyphFits g := by
  change s.faultView.glyphFits g = _
  rw [h]
  rfl

theorem storedAddresses_eq_of_faultView (calls : List SinkCall) : storedAddresses s calls = storedAddresses s' calls := by
  change storedAddresses s.faultView calls = _
  rw [h]
  rfl

end

/-- A string whose glyphs fit is drawn from every state with the cursor and the font they fit at, and stores to their
pixels' bytes alone (R125, R150 (d)). -/
theorem drawString_of_textFits {s s' : State} {codes : List Byte} (hview : s'.faultView = s.faultView)
    (hfits : s.textFits codes = true) : ∃ t, drawString codes s' = .ok t ∧
      ∀ a, a ∉ storedAddresses s (s.stringPixels codes) → t.fb.read a = s'.fb.read a := by
  induction codes generalizing s s' with
  | nil => exact ⟨s', rfl, fun a _ => rfl⟩
  | cons c rest ih =>
    have hglyph := glyph_eq_of_faultView hview c
    rw [State.textFits] at hfits
    rw [State.stringPixels, drawString_cons]
    cases hg : s.glyph c with
    | error k => simp [hg] at hfits
    | ok g? =>
      rw [hg] at hfits hglyph
      cases g? with
      | none =>
        rw [drawChar_of_no_glyph hglyph]
        exact ih hview hfits
      | some g =>
        obtain ⟨hfit, hrest⟩ := (Bool.and_eq_true _ _).mp hfits
        obtain ⟨hx, hy⟩ := cursor_eq_of_faultView hview
        rw [← glyphFits_eq_of_faultView hview] at hfit
        have hnext : (s'.withGlyph g).faultView = (s.setCursor (s.curx + g.xAdvance) s.cury).faultView := by
          rw [s'.withGlyph_faultView, hview, hx, hy, State.faultView_setCursor]
        obtain ⟨t, hdraw, hread⟩ := ih hnext hrest
        rw [drawChar_of_fits hglyph hfit]
        refine ⟨t, hdraw, fun a ha => ?_⟩
        simp only [storedAddresses_append, List.mem_append, not_or] at ha
        obtain ⟨hhead, htail⟩ := ha
        rw [← storedAddresses_eq_of_faultView hview, ← glyphPixels_eq_of_faultView hview] at hhead
        exact (hread a htail).trans (State.withGlyph_read hhead)

/-- A character moves the cursor by its width (R121, R124). -/
theorem drawChar_curx {s t : State} {c : Byte} (h : drawChar c s = .ok t) :
    ∃ g?, s.glyph c = .ok g? ∧ t.curx = s.curx + glyphAdvance g? := by
  cases hg : s.glyph c with
  | error k => rw [drawChar_of_glyph_error hg] at h; cases h
  | ok g? =>
    refine ⟨g?, rfl, ?_⟩
    cases g? with
    | none =>
      obtain rfl := Except.ok.inj ((drawChar_of_no_glyph hg).symm.trans h)
      exact (BitVec.add_zero _).symm
    | some g =>
      rw [drawChar_of_glyph hg] at h
      cases hfault : s.glyphFault g with
      | some code => rw [hfault] at h; cases h
      | none => rw [hfault] at h; obtain rfl := Except.ok.inj h; rfl

/-- A string that is drawn has a width, and moves the cursor by it (R126 (b)). -/
theorem drawString_curx {s t : State} {codes : List Byte} (h : drawString codes s = .ok t) :
    ∃ width, (∀ sum, widthSum s sum codes = .ok (sum + width)) ∧ t.curx = s.curx + BitVec.ofNat 8 width := by
  induction codes generalizing s with
  | nil => exact ⟨0, fun sum => rfl, Except.ok.inj h ▸ (BitVec.add_zero _).symm⟩
  | cons c rest ih =>
    rw [drawString_cons] at h
    obtain ⟨u, hchar, hrest⟩ := bind_eq_ok h
    obtain ⟨g?, hg, hux⟩ := drawChar_curx hchar
    obtain ⟨width, hsum, htx⟩ := ih hrest
    have hfont : u.glyph = s.glyph := by
      obtain ⟨cx, ims, x, y, w, h, -, rfl⟩ := (drawChar_answers c s).ok hchar
      rfl
    refine ⟨(glyphAdvance g?).toNat + width, fun sum => ?_, ?_⟩
    · rw [widthSum_cons, widthOf_eq_map, hg, ← Nat.add_assoc, ← hsum, widthSum_congr hfont]
      rfl
    · rw [htx, hux, BitVec.ofNat_add, BitVec.ofNat_toNat, BitVec.setWidth_eq, BitVec.add_assoc]

end Sys2Proof.Machine
end

section
/-! PROOFS. DRAWSTR where its glyphs fit, and the width of what it draws. -/

namespace Sys2Proof.Machine

/-- Settles O55: glyph after glyph, each where the advances before it have moved the cursor. -/
theorem drawstrCompletesWhereItsGlyphsFit : Obligations.DrawstrCompletesWhereItsGlyphsFit := by
  intro s codes hfits
  obtain ⟨t, hdraw, hread⟩ := drawString_of_textFits rfl hfits
  refine ⟨_, congrArg (s.finish (2 + codes.length)) hdraw, ?_, hread⟩
  obtain ⟨cx, ims, x, y, w, h, -, rfl⟩ := (drawString_answers codes s).ok hdraw
  rfl

/-- Settles O56: both add up the advances of the string's glyphs. -/
theorem stringWidthIsTheCursorsMove : Obligations.StringWidthIsTheCursorsMove := by
  intro s t u codes _ hwidths htf hdraw huf
  obtain ⟨u', hdrawn, rfl⟩ := s.finish_completes (2 + codes.length) _ u hdraw huf
  obtain ⟨width, hsum, hcurx⟩ := drawString_curx hdrawn
  rw [exec_widths, hsum, Nat.zero_add] at hwidths
  obtain rfl := Host.Outcome.next.inj hwidths
  exact hcurx.trans (congrArg (s.curx + ·) (BitVec.setWidth_ofNat_of_le (by decide) width).symm)

end Sys2Proof.Machine
end

section
/-! PROOFS. The statements of `45_control.md`: MOVETO, SETMODE, SETFONT and CLEAR. -/

namespace Sys2Proof.Machine

/-- SETMODE with an operand that names a mode completes (R128). -/
theorem exec_setmode_of_modeOperand {m : Byte} {mode : DrawMode} (h : modeOperand m = some mode) (s : State) :
    exec (.setmode m) s = .next ((s.setMode mode).advance 2) := by
  rw [exec, execSetmode, h]
  rfl

/-- SETFONT with an operand that is a flag completes (R129). -/
theorem exec_setfont_of_fontOperand {en : Byte} {b : Bool} (h : fontOperand en = some b) (s : State) :
    exec (.setfont en) s = .next ((s.setFonten b).advance 2) := by
  rw [exec, execSetfont, h]
  rfl

section
variable {s : State} (h : s.fb = ⟨.zero, []⟩)
include h

theorem State.hostReadFb_of_cleared {a : Nat} (ha : a < s.fbSize) : s.hostReadFb a = some 0 := by
  rw [State.hostReadFb, if_pos ha, h, Memory.read_empty]
  rfl

theorem State.pixelAt_of_cleared (u v : Nat) : s.pixelAt u v = false := by
  rw [State.pixelAt, h, Memory.read_empty]
  exact BitVec.getLsbD_zero

end

/-- Settles O22: CLEAR replaces `FB` by the framebuffer that lists nothing and reads 0 everywhere. -/
theorem clearZeroesTheFramebuffer : Obligations.ClearZeroesTheFramebuffer := by
  intro s rest
  exact ⟨rfl, _, rfl, rfl, fun _ ha => State.hostReadFb_of_cleared rfl ha, State.pixelAt_of_cleared rfl,
    Memory.wf_empty .zero⟩

/-- Settles O19: MOVETO accepts every position. -/
theorem movetoSetsTheCursor : Obligations.MovetoSetsTheCursor :=
  fun _ _ _ _ => ⟨rfl, rfl⟩

/-- Settles O20: each of 0, 1, 2 names its mode, and no other operand names one. -/
theorem setmodeSetsTheMode : Obligations.SetmodeSetsTheMode := by
  intro s m rest
  obtain ⟨hreserved, -⟩ := reservedOperandsRaiseIllegalOperand s
  refine ⟨rfl, fun h0 => ?_, fun h1 => ?_, fun h2 => ?_, hreserved m⟩
  · obtain rfl : m = 0 := BitVec.eq_of_toNat_eq h0
    exact exec_setmode_of_modeOperand (mode := .set) rfl s
  · obtain rfl : m = 1 := BitVec.eq_of_toNat_eq h1
    exact exec_setmode_of_modeOperand (mode := .clear) rfl s
  · obtain rfl : m = 2 := BitVec.eq_of_toNat_eq h2
    exact exec_setmode_of_modeOperand (mode := .invert) rfl s

/-- Settles O21: 0 and 1 are the flags, and no other operand is one. -/
theorem setfontAttachesTheFont : Obligations.SetfontAttachesTheFont := by
  intro s en rest
  obtain ⟨-, hreserved, -⟩ := reservedOperandsRaiseIllegalOperand s
  refine ⟨rfl, fun h0 => ?_, fun h1 => ?_, hreserved en⟩
  · obtain rfl : en = 0 := BitVec.eq_of_toNat_eq h0
    exact exec_setfont_of_fontOperand (b := false) rfl s
  · obtain rfl : en = 1 := BitVec.eq_of_toNat_eq h1
    exact exec_setfont_of_fontOperand (b := true) rfl s

end Sys2Proof.Machine
end

section
/-! SUPPORT. A faulted engine (R134, R135): it has no step and is not final. What the entry of a fault keeps. -/

namespace Sys2Proof.Machine

theorem run_succ_of_step_fault {M : Host.Core} {s : M.State} {r : M.Fault} (h : M.step s = .fault r) (n : Nat) :
    M.run (n + 1) s = .fault r := by
  rw [Host.Core.run, h]

section
variable {s : State} (hf : s.fault = true)
include hf

theorem step_of_fault : step s = .fault .engineFaulted := if_pos hf

theorem State.isFinal_of_fault : s.isFinal = false := by
  rw [State.isFinal, hf]
  rfl

/-- No run of one or more steps leaves a faulted state. -/
theorem run_succ_of_fault (n : Nat) : core.run (n + 1) s = .fault .engineFaulted :=
  run_succ_of_step_fault (M := core) (step_of_fault hf) n

end

theorem State.takeFault_params (s : State) (k : FaultCode) : SameParams s (s.takeFault k) :=
  ⟨s.takeFault_width k, s.takeFault_height k, s.takeFault_fm k, s.takeFault_bm k, s.takeFault_cs k⟩

/-- No other fault has the code of `IllegalOperand` (R132). -/
theorem FaultCode.eq_illegalOperand_of_code {k : FaultCode} (h : k.code = 2) : k = .illegalOperand := by
  cases k with
  | illegalOperand => rfl
  | illegalCommand | sinkRange | fontRange => cases h

/-- A command that sets `FAULT` has entered a fault it may raise. -/
theorem takeFault_of_exec {i : Instr} {s t : State} (h : exec i s = .next t) (hf : s.fault = false)
    (ht : t.fault = true) : ∃ k, MayRaise i k ∧ t = s.takeFault k := by
  obtain ⟨u, hu, he⟩ | ⟨k, hk, he⟩ := exec_cases i s
  · obtain rfl := Host.Outcome.next.inj (he.symm.trans h)
    obtain ⟨-, hfault, -⟩ := hu.keeps
    simp [hfault, hf] at ht
  · exact ⟨k, hk, Host.Outcome.next.inj (h.symm.trans he)⟩

end Sys2Proof.Machine
end

section
/-! PROOFS. The statements of `60_exceptions.md`: fault entry, and that only reset leaves a fault. -/

namespace Sys2Proof.Machine

/-- Settles O16: a command that sets `FAULT` ends in `State.takeFault`, which for code 2 writes `STATUS` alone. -/
theorem faultEntryStopsTheEngine : Obligations.FaultEntryStopsTheEngine := by
  intro i s t hf h ht
  have hstuck : step t = .fault .engineFaulted ∧ t.isFinal = false := ⟨step_of_fault ht, State.isFinal_of_fault ht⟩
  obtain ⟨k, hk, rfl⟩ := takeFault_of_exec h hf ht
  refine ⟨s.takeFault_cp k, s.takeFault_params k, ?_, fun hcode => ?_, hstuck⟩
  · rw [State.takeFault_fcode]
    exact hk.code
  · rw [State.takeFault_fcode] at hcode
    obtain rfl := FaultCode.eq_illegalOperand_of_code hcode
    exact s.takeFault_precise .illegalOperand rfl

/-- Settles O13: the first step of any run already has no next state, and reset writes `STATUS` and `CP`. -/
theorem onlyResetClearsAFault : Obligations.OnlyResetClearsAFault := by
  intro s hf
  exact ⟨run_succ_of_fault hf, fun fm bm cs answers => ⟨s.reassertReset_fault fm bm cs answers,
    s.reassertReset_fcode fm bm cs answers, s.reassertReset_cp fm bm cs answers⟩⟩

end Sys2Proof.Machine
end

section
/-! SUPPORT. What reset leaves to be read (R32, R145, R146), and runs of the engine (R153). -/

namespace Sys2Proof.Machine

/-- After reset every port address behind the size's three reads 0 (R32, R145). -/
theorem State.afterReset_readPort (p : RunParams) (draw : Nat) {a : Byte} (ha : 3 ≤ a.toNat) :
    (State.afterReset p draw).readPort a = 0 := by
  unfold State.readPort
  split
  -- the addresses of `WIDTH`, `HEIGHT` and `NPAGES`
  case h_1 | h_2 | h_3 => omega
  case h_10 => exact BitVec.eq_of_toNat_eq (State.ctrl_toNat _)
  case h_11 => exact BitVec.eq_of_toNat_eq (State.status_toNat _)
  case h_12 | h_13 => exact BitVec.extractLsb'_zero
  all_goals rfl

/-- The first three port addresses show the size alone (R23, R32). -/
theorem State.readPort_eq_of_size {s t : State} (hw : t.width = s.width) (hh : t.height = s.height) {a : Byte}
    (ha : a.toNat < 3) : t.readPort a = s.readPort a := by
  have hrows : t.h = s.h := congrArg Height.rows hh
  have hpages : t.pages = s.pages := congrArg Height.pages hh
  unfold State.readPort
  interval_cases a.toNat
  · exact hw
  · exact congrArg (BitVec.ofNat 8) hrows
  · exact congrArg (BitVec.ofNat 8) hpages

/-- A run of one more step answers a state where its first step does and the run goes on from there. -/
theorem run_succ_eq_next_iff {M : Host.Core} {n : Nat} {s t : M.State} :
    M.run (n + 1) s = .next t ↔ ∃ u, M.step s = .next u ∧ M.run n u = .next t := by
  rw [Host.Core.run]
  cases M.step s <;> simp

/-- A run outlives neither its stream nor a fault, which takes the place of at least one byte of it (R153). -/
theorem run_succ_ne_next {n : Nat} {s : State} (hn : s.cs.size - s.cp.toNat ≤ n) (t : State) :
    core.run (n + 1) s ≠ .next t := by
  intro hrun
  induction n generalizing s with
  | zero =>
    obtain ⟨u, hstep, -⟩ := run_succ_eq_next_iff.mp hrun
    obtain ⟨-, -, hcp, -⟩ := step_cases hstep
    omega
  | succ n ih =>
    obtain ⟨u, hstep, hrest⟩ := run_succ_eq_next_iff.mp hrun
    obtain ⟨hforward, -, hparams⟩ := stepsMoveForwardAndKeepTheParameters s u hstep
    cases hf : u.fault with
    | true =>
      rw [run_succ_of_fault hf] at hrest
      cases hrest
    | false =>
      obtain ⟨hmoved, -⟩ := hforward hf
      refine ih ?_ hrest
      rw [hparams.cs]
      omega

end Sys2Proof.Machine
end

section
/-! SUPPORT. The discipline of R150 puts a shape's sink calls in their domain, and lets every lookup of a glyph
succeed. -/

namespace Sys2Proof.Machine

/-! ## Completion -/

/-- Command `i` completes in `s`: `CP` moves past it and `STATUS` stays (R72). -/
def Completes (i : Instr) (s : State) : Prop :=
  ∃ t, exec i s = .next t ∧ t.cp = s.cp + BitVec.ofNat 16 i.length ∧ t.fault = s.fault ∧ t.fcode = s.fcode

/-- A command whose effect is an answer, and not a fault, completes. -/
theorem completes_of_effect {i : Instr} {s u : State} {r : Except FaultCode State}
    (hexec : exec i s = s.finish i.length r) (hr : Answers (MayRaise i) (Written s i) r) (hu : r = .ok u) :
    Completes i s := by
  obtain ⟨hcp, hf, hfc, -⟩ := (hr.ok hu).keeps
  subst hu
  exact ⟨u.advance i.length, hexec, congrArg (· + _) hcp, hf, hfc⟩

/-- A shape command with every sink call in its domain completes (R42, R87). -/
theorem completes_of_calls_inDomain {i : Instr} {s : State} {calls : List SinkCall}
    (hshape : shapeCalls s i = some calls) (hlegal : i.legalOperands = true)
    (hdom : calls.all (SinkCall.inDomain s) = true) : Completes i s := by
  obtain ⟨x, y, w, h, -, hexec⟩ := exec_shape_inside hshape hlegal hdom
  exact ⟨_, hexec, rfl, rfl, rfl⟩

/-! ## Shapes -/

/-- A shape whose rectangle is on the display, and whose calls stay in it, makes them in their domain; of zero size it
makes none (R88, R150 (c)). -/
theorem rectangle_inDomain {s : State} {x y w h : Byte} {calls : List SinkCall}
    (hdisplay : s.shapeOnDisplay x y w h = true) (hcalls : 1 ≤ w.toNat → 1 ≤ h.toNat →
      ∀ c ∈ calls, c.within x.int y.int ((w.toNat : Int) - 1) ((h.toNat : Int) - 1)) :
    (if w = 0 ∨ h = 0 then [] else calls).all (SinkCall.inDomain s) = true := by
  split
  · rfl
  · rename_i hne
    obtain ⟨hw, hh⟩ := (nonempty_iff w h).mp hne
    obtain ⟨hcols, hrows⟩ : x.toNat + w.toNat ≤ s.w ∧ y.toNat + h.toNat ≤ s.h := by
      simp only [State.shapeOnDisplay, State.boxOnDisplay, Bool.or_eq_true, Bool.and_eq_true, beq_iff_eq,
        decide_eq_true_eq] at hdisplay
      exact hdisplay.resolve_left hne
    refine all_inDomain_of_within (hcalls hw hh) ?_ ?_ ?_ ?_ <;> simp only [Byte.int] <;> omega

/-- Under the discipline every sink call of a shape is in its domain (R150 (c)). -/
theorem shapeCalls_inDomain_of_disciplined {s : State} {i : Instr} {calls : List SinkCall}
    (hshape : shapeCalls s i = some calls) (hd : s.disciplined i = true) :
    calls.all (SinkCall.inDomain s) = true := by
  cases i with
  | pixel x y =>
    cases hshape
    simpa [State.disciplined, SinkCall.inDomain] using hd
  | lineto x y =>
    cases hshape
    simp only [State.disciplined, Bool.and_eq_true, decide_eq_true_eq] at hd
    obtain ⟨⟨⟨hx0, hy0⟩, hx1⟩, hy1⟩ := hd
    exact (lineCalls_all_inDomain_iff s s.curx s.cury x y).mpr ⟨⟨hx0, hy0⟩, hx1, hy1⟩
  | framerect x y w h =>
    cases hshape
    exact rectangle_inDomain hd fun hw hh _ => frameBody_within hw hh
  | paintrect x y w h =>
    cases hshape
    exact rectangle_inDomain hd fun _ hh _ => paintBody_within hh
  | frameoval x y w h | paintoval x y w h =>
    cases hshape
    exact rectangle_inDomain hd fun hw hh => ovalCalls_within _ _ _ _ _ hw hh
  | framerrect x y w h c | paintrrect x y w h c =>
    cases hshape
    obtain ⟨hcw, hch⟩ := two_mul_clampRadius_le w.toNat h.toNat c.toNat
    exact rectangle_inDomain hd fun hw hh _ => roundRectCalls_within hw hh hcw hch
  | corner cx cy r m =>
    cases hshape
    simp only [State.disciplined, Bool.and_eq_true, Bool.or_eq_true, decide_eq_true_eq] at hd
    obtain ⟨-, hr | hdisplay⟩ := hd
    · rw [cornerCalls_eq_nil _ _ (by omega)]
      rfl
    · exact cornerCalls_inDomain hdisplay
  | _ => cases hshape

/-- Under the discipline no operand is reserved (R70, R150 (b)). -/
theorem legalOperands_of_disciplined {s : State} {i : Instr} (hd : s.disciplined i = true) :
    i.legalOperands = true := by
  cases i with
  | setmode m | setfont en => exact hd
  | corner cx cy r m => exact (Bool.and_eq_true_iff.mp hd).1
  | _ => rfl

theorem exists_modeOperand {m : Byte} (h : (Instr.setmode m).legalOperands = true) :
    ∃ mode, modeOperand m = some mode :=
  Option.ne_none_iff_exists'.mp fun hm => Bool.false_ne_true ((modeOperand_eq_none hm).symm.trans h)

theorem exists_fontOperand {en : Byte} (h : (Instr.setfont en).legalOperands = true) :
    ∃ b, fontOperand en = some b :=
  Option.ne_none_iff_exists'.mp fun hen => Bool.false_ne_true ((fontOperand_eq_none hen).symm.trans h)

/-! ## Text -/

/-- A font table as long as its header claims answers every lookup, and so does no font (R52, R150 (d)). -/
theorem State.glyph_of_fontTableFits {s : State} (h : (!s.fonten || s.fontTableFits) = true) (c : Byte) :
    ∃ g?, s.glyph c = .ok g? := by
  cases hf : s.fonten with
  | false => exact ⟨none, State.glyph_of_not_fonten hf⟩
  | true =>
    have hread : ∀ {a : Nat}, a < s.fm.size → s.fm.read a = some (cellsRead 0 a s.fm.cells) := fun ha => if_pos ha
    simp only [hf, Bool.not_true, Bool.false_or, State.fontTableFits, Bool.and_eq_true, Bool.or_eq_true,
      decide_eq_true_eq] at h
    obtain ⟨hheader, htable⟩ := h
    rw [State.glyph_of_header hf (hread (by omega)) (hread (by omega))]
    split
    · exact ⟨none, rfl⟩
    · rw [State.glyphEntry_of_reads fun k hk => hread (by omega)]
      exact ⟨some _, rfl⟩

/-- Such a font gives every code a width (R121). -/
theorem exists_widthOf {s : State} (h : (!s.fonten || s.fontTableFits) = true) :
    ∃ width : Byte → Nat, ∀ c, widthOf s c = .ok (width c) := by
  choose glyph hglyph using State.glyph_of_fontTableFits h
  exact ⟨fun c => (glyphAdvance (glyph c)).toNat, fun c => by rw [widthOf_eq_map, hglyph]; rfl⟩

/-- Without a font no code has a glyph that could fail to fit (R52). -/
theorem State.textFits_of_not_fonten {s : State} (hf : s.fonten = false) (codes : List Byte) :
    s.textFits codes = true := by
  induction codes with
  | nil => rfl
  | cons c rest ih =>
    rw [State.textFits, State.glyph_of_not_fonten hf]
    exact ih

/-- Under the discipline a string is drawn (R125, R150 (d)). -/
theorem drawString_of_disciplined {s : State} {codes : List Byte} (hd : s.disciplined (.drawstr codes) = true) :
    ∃ t, drawString codes s = .ok t := by
  have hfits : s.textFits codes = true := by
    cases hf : s.fonten with
    | false => exact State.textFits_of_not_fonten hf codes
    | true =>
      simp only [State.disciplined, hf, Bool.not_true, Bool.false_or, Bool.and_eq_true] at hd
      exact hd.2
  obtain ⟨t, hdraw, -⟩ := drawString_of_textFits rfl hfits
  exact ⟨t, hdraw⟩

/-- A string of one code is the character (R125). -/
theorem drawString_singleton (c : Byte) (s : State) : drawString [c] s = drawChar c s := by
  rw [drawString]
  cases drawChar c s <;> rfl

end Sys2Proof.Machine
end

section
/-! PROOFS. The statements of `70_reset_and_hazards.md`: reset, the discipline, and that runs are finite. -/

namespace Sys2Proof.Machine

/-- Settles O9: registers and port address by address; the second reset is one with the size the block has. -/
theorem resetLeavesTheSpecifiedValues : Obligations.ResetLeavesTheSpecifiedValues := by
  refine ⟨fun p draw => ?_, fun s fm bm cs answers => ?_⟩
  · exact ⟨rfl, rfl, rfl, rfl, rfl, rfl, rfl, rfl, rfl, rfl, rfl, rfl, rfl, rfl, Memory.read_empty _, rfl, rfl, rfl,
      fun _ => State.afterReset_readPort p draw⟩
  · exact ⟨rfl, rfl, rfl, rfl, rfl, rfl, rfl, rfl, rfl, rfl, rfl, rfl, rfl, rfl, rfl, Memory.read_empty _,
      fun _ => State.readPort_eq_of_size (s := s) (t := s.reassertReset fm bm cs answers) rfl rfl,
      fun _ => State.afterReset_readPort _ s.draws⟩

/-- Settles O12: each step but the last moves `CP` toward the end of the stream. -/
theorem runsAreFinite : Obligations.RunsAreFinite :=
  fun _ _ => run_succ_ne_next le_rfl

/-- Settles O18: the operands are legal, a shape's sink calls are in their domain, and text finds its glyphs. -/
theorem disciplinedCommandsRaiseNoFault : Obligations.DisciplinedCommandsRaiseNoFault := by
  intro i s hd
  change Completes i s
  have hlegal := legalOperands_of_disciplined hd
  cases i with
  | moveto | clear | invalidate | validate => exact ⟨_, rfl, rfl, rfl, rfl⟩
  | setmode m =>
    obtain ⟨mode, hm⟩ := exists_modeOperand hlegal
    exact ⟨_, exec_setmode_of_modeOperand hm s, rfl, rfl, rfl⟩
  | setfont en =>
    obtain ⟨b, hen⟩ := exists_fontOperand hlegal
    exact ⟨_, exec_setfont_of_fontOperand hen s, rfl, rfl, rfl⟩
  | markdirty l t w h => exact ⟨_, rfl, by simp [Instr.length], by simp, by simp⟩
  | flush => exact completes_of_effect rfl (answers_ok (flushEffect_written s)) rfl
  | widthc c =>
    obtain ⟨width, hwidth⟩ := exists_widthOf hd
    exact completes_of_effect rfl (result_answers (.inl ⟨c, rfl⟩) s _ (widthOf_answers s c)) (by rw [hwidth])
  | widths cs =>
    obtain ⟨width, hwidth⟩ := exists_widthOf hd
    exact completes_of_effect rfl (result_answers (.inr ⟨cs, rfl⟩) s _ (widthSum_answers s 0 cs))
      (by rw [widthSum_of_widths fun c _ => hwidth c])
  | drawchar c =>
    obtain ⟨t, hdraw⟩ := drawString_of_disciplined (codes := [c]) hd
    rw [drawString_singleton] at hdraw
    exact completes_of_effect rfl (text_answers (.inl ⟨c, rfl⟩) (drawChar_answers c s)) hdraw
  | drawstr cs =>
    obtain ⟨t, hdraw⟩ := drawString_of_disciplined hd
    exact completes_of_effect rfl (text_answers (.inr ⟨cs, rfl⟩) (drawString_answers cs s)) hdraw
  | pixel | lineto | framerect | paintrect | frameoval | paintoval | corner | framerrect | paintrrect =>
    exact completes_of_calls_inDomain rfl hlegal (shapeCalls_inDomain_of_disciplined rfl hd)

end Sys2Proof.Machine
end
